-- ==== Sys2Proof/Word.lean ====
section
/-! DEFINITION. The words LUXCALC moves: 32-bit port and register words, 16-bit ROM words and channel
counts, 35-bit request words (00_scope.md R5, 30_encoding.md R65). Bit 0 is the least significant bit (R6). -/

namespace Sys2Proof

/-- A port or register word (00_scope.md R5). -/
abbrev Word := BitVec 32

/-- A word of the breakpoint ROM (20_memory.md R40, R47 item 2). -/
abbrev RomWord := BitVec 16

/-- A raw channel count of the sensor (00_scope.md R5). -/
abbrev Channel := BitVec 16

/-- A request as one word `{req_op, req_data}` (30_encoding.md R65). -/
abbrev ReqWord := BitVec 35

end Sys2Proof
end

