-- ==== Sys2Proof/Config.lean ====
section
/-! DEFINITION. What is fixed when the block is built (00_scope.md R4), as data, and the free values the
spec leaves open as opaque constants. The contents of the default ROM stand in Machine/Build.lean. -/

namespace Sys2Proof

/-- The sensor package the block is built for, and the two ROM tables (00_scope.md R4, 20_memory.md R45):
0 = T_FN_CL, 1 = CS. -/
inductive Package where
  | tFnCl
  | cs
  deriving DecidableEq, Repr

/-- The fields of a ROM entry, K = 0, B = 1, M = 2 (20_memory.md R45, 30_encoding.md R69). -/
inductive RomField where
  | k
  | b
  | m
  deriving DecidableEq, Repr

/-- One breakpoint entry (K, B, M) of 16-bit words (20_memory.md R47 items 1 and 2). -/
structure RomEntry where
  k : RomWord
  b : RomWord
  m : RomWord
  deriving DecidableEq, Repr

/-- BP_ROM: two tables of exactly eight entries (20_memory.md R40, R47 item 1). -/
structure BpRom where
  tFnCl : Vector RomEntry 8
  cs    : Vector RomEntry 8
  deriving DecidableEq, Repr

/-- The three parameters of LUXCALC (00_scope.md R4). -/
structure Build where
  /-- `PACKAGE`. -/
  package     : Package
  /-- `BP_ROM`. -/
  rom         : BpRom
  /-- `CALC_LATENCY`. -/
  calcLatency : Nat
  deriving DecidableEq, Repr

/-- What `rsp_err` shows in a cycle with `rsp_valid = 0`: any value (10_state.md R33,
93_implementation_defined.md section 2). Free value, log entry 5. -/
opaque Config.freeRspErr : Nat → Bool

/-- What `rsp_data` shows in a cycle with `rsp_valid = 0`: any value (10_state.md R33). Free value, log entry 5. -/
opaque Config.freeRspData : Nat → Word

/-- The draws for the state before the first reset, in each cycle (first argument) a word for each piece of state
(second argument) (70_reset_and_hazards.md R163). Free values, log entry 7. -/
opaque Config.powerOnWord : Nat → Nat → Word

/-- What `req_ready` shows in a cycle before the first reset: any value (70_reset_and_hazards.md R163). Free value,
log entry 7. -/
opaque Config.freeReqReady : Nat → Bool

end Sys2Proof
end

