-- ==== Sys2Proof/Syntax.lean ====
section
/-! DEFINITION. The operations of LUXCALC as syntax: one constructor per mnemonic of spec/opcode_table.json
(rows that share a mnemonic are bit patterns of one operation, log entry 12). Fields are those of the formats
of 30_encoding.md R65; bits a format ignores are no operand (R70). -/

namespace Sys2Proof

/-- The registers RDREG reads, in selector order 0 to 8 (30_encoding.md R68). -/
inductive RegName where
  | cfg
  | lux
  | status
  | seg
  | sch0
  | sch1
  | chscale
  | ratio
  | temp
  deriving DecidableEq, Repr

/-- An operation of LUXCALC (30_encoding.md R66, R70). -/
inductive Instr where
  /-- NOP (40_access_ops.md R80). -/
  | nop
  /-- WRCFG: the fields INTEG and GAIN of format C (R82). -/
  | wrcfg (integ : BitVec 2) (gain : Bool)
  /-- RDREG with a selector 0 to 8 (R84). -/
  | rdreg (r : RegName)
  /-- CALC: the two channels of the PackedReading (41_lux_calc.md R100). -/
  | calcLux (ch0 ch1 : Channel)
  /-- RDROM with a field code 0 to 2; the entry number is `idx + 1` (R86, R67). -/
  | rdrom (tbl : Package) (idx : BitVec 3) (fld : RomField)
  /-- A reserved opcode 5, 6 or 7: error outcome BadOp (60_exceptions.md R140). -/
  | badOp (op : BitVec 3)
  /-- RDREG with a reserved selector 9 to 15: error outcome BadSel (R140). -/
  | badSel (sel : BitVec 4)
  /-- RDROM with the reserved field code 3: error outcome BadFld (R140). -/
  | badFld (tbl : Package) (idx : BitVec 3)
  deriving DecidableEq, Repr

end Sys2Proof
end

