-- ==== Sys2Proof/WellFormed.lean ====
section
/-! DEFINITION. Which terms of `Instr` a request word can stand for (30_encoding.md R70): a reserved opcode is
5, 6 or 7, and a reserved RDREG selector is 9 to 15. Every other operand may hold any value of its type. -/

namespace Sys2Proof

/-- The term is one some request word decodes to. -/
def Instr.wellFormed : Instr → Bool
  | .nop => true
  | .wrcfg _ _ => true
  | .rdreg _ => true
  | .calcLux _ _ => true
  | .rdrom _ _ _ => true
  | .badOp op => decide (5 ≤ op.toNat)
  | .badSel sel => decide (9 ≤ sel.toNat)
  | .badFld _ _ => true

end Sys2Proof
end

