-- ==== Sys2Proof/Decode.lean ====
section
/-! DEFINITION. The decoder, total on every 35-bit request word (30_encoding.md R65 to R71), the encoder, and the
opcode table as rows. Numbers wider than a request word are rejected by name. -/

namespace Sys2Proof

/-- Why a number is no request word. -/
inductive DecodeReject where
  /-- It has a bit above bit 34; a request is one 35-bit word (30_encoding.md R65, R71). -/
  | widerThanRequest
  deriving DecidableEq, Repr

/-- The opcode field `W[34:32]` (R65). -/
def opField (w : ReqWord) : BitVec 3 := w.extractLsb' 32 3

/-- The operand word `W[31:0]` (R65). -/
def dataField (w : ReqWord) : Word := w.extractLsb' 0 32

/-- `W = {req_op, req_data}` (R65). -/
def requestWord (op : BitVec 3) (data : Word) : ReqWord := op ++ data

/-- The table a TBL bit names: 0 = T_FN_CL, 1 = CS (R69, 20_memory.md R45). -/
def tableOfBit (t : Bool) : Package := if t then .cs else .tFnCl

/-- The TBL bit of a table (R69). -/
def bitOfTable : Package → Bool
  | .tFnCl => false
  | .cs => true

/-- Format S: the selector map, and `none` for the reserved selectors 9 to 15 (R68). -/
def regOfSel (sel : BitVec 4) : Option RegName :=
  match sel with
  | 0#4 => some .cfg
  | 1#4 => some .lux
  | 2#4 => some .status
  | 3#4 => some .seg
  | 4#4 => some .sch0
  | 5#4 => some .sch1
  | 6#4 => some .chscale
  | 7#4 => some .ratio
  | 8#4 => some .temp
  | _ => none

/-- The selector of a register (R68). -/
def selOfReg : RegName → BitVec 4
  | .cfg => 0
  | .lux => 1
  | .status => 2
  | .seg => 3
  | .sch0 => 4
  | .sch1 => 5
  | .chscale => 6
  | .ratio => 7
  | .temp => 8

/-- Format R: the field codes, and `none` for the reserved code 3 (R69). -/
def fieldOfCode (c : BitVec 2) : Option RomField :=
  match c with
  | 0#2 => some .k
  | 1#2 => some .b
  | 2#2 => some .m
  | _ => none

/-- The code of a field (R69). -/
def codeOfField : RomField → BitVec 2
  | .k => 0
  | .b => 1
  | .m => 2

/-- Format C: `INTEG = data[1:0]`, `GAIN = data[4]` (R65). -/
def decodeWrcfg (data : Word) : Instr := .wrcfg (data.extractLsb' 0 2) (data.getLsbD 4)

/-- Format S: `SEL = data[3:0]` (R65). -/
def decodeRdreg (data : Word) : Instr :=
  match regOfSel (data.extractLsb' 0 4) with
  | some r => .rdreg r
  | none => .badSel (data.extractLsb' 0 4)

/-- Format P: `CH0 = data[15:0]`, `CH1 = data[31:16]` (R65, 20_memory.md R42). -/
def decodeCalc (data : Word) : Instr := .calcLux (data.extractLsb' 0 16) (data.extractLsb' 16 16)

/-- Format R: `IDX = data[2:0]`, `TBL = data[3]`, `FLD = data[5:4]` (R65). -/
def decodeRdrom (data : Word) : Instr :=
  match fieldOfCode (data.extractLsb' 4 2) with
  | some f => .rdrom (tableOfBit (data.getLsbD 3)) (data.extractLsb' 0 3) f
  | none => .badFld (tableOfBit (data.getLsbD 3)) (data.extractLsb' 0 3)

/-- The opcode map (R66). -/
def decodeRequest (op : BitVec 3) (data : Word) : Instr :=
  match op with
  | 0#3 => .nop
  | 1#3 => decodeWrcfg data
  | 2#3 => decodeRdreg data
  | 3#3 => decodeCalc data
  | 4#3 => decodeRdrom data
  | _ => .badOp op

/-- The decoder: total, reading op and then the format's fields (R66). -/
def decode (w : ReqWord) : Instr := decodeRequest (opField w) (dataField w)

/-- Decoding a number, rejecting one that is no 35-bit word by name. -/
def decodeNat (n : Nat) : Except DecodeReject Instr :=
  if n < 2 ^ 35 then .ok (decode (BitVec.ofNat 35 n)) else .error .widerThanRequest

/-- What the decoder reads from an instruction of spec/opcode_table.json: `w` holds its bits, bit 0 the least
significant bit of the one request word. The row's width says nothing more, as every bit of `w` above it is 0
(log entry 18). -/
def decodeTableWord (_nbits w : Nat) : Option Instr :=
  match decodeNat w with
  | .ok i => some i
  | .error _ => none

/-- The opcode of an operation (R66). -/
def opOf : Instr → BitVec 3
  | .nop => 0
  | .wrcfg _ _ => 1
  | .rdreg _ => 2
  | .calcLux _ _ => 3
  | .rdrom _ _ _ => 4
  | .badOp op => op
  | .badSel _ => 2
  | .badFld _ _ => 4

/-- The operand word of an operation, every ignored bit 0 (R65; log entry 13). -/
def dataOf : Instr → Word
  | .nop => 0
  | .wrcfg integ gain => 0#27 ++ BitVec.ofBool gain ++ 0#2 ++ integ
  | .rdreg r => 0#28 ++ selOfReg r
  | .calcLux ch0 ch1 => ch1 ++ ch0
  | .rdrom t idx f => 0#26 ++ codeOfField f ++ BitVec.ofBool (bitOfTable t) ++ idx
  | .badOp _ => 0
  | .badSel sel => 0#28 ++ sel
  | .badFld t idx => 0#26 ++ 3#2 ++ BitVec.ofBool (bitOfTable t) ++ idx

/-- The request word of an operation. -/
def encode (i : Instr) : ReqWord := requestWord (opOf i) (dataOf i)

/-- A row of the opcode table: the words `w` with `w AND mask = bits`. -/
structure OpRow where
  mnemonic : String
  bits     : ReqWord
  mask     : ReqWord
  deriving DecidableEq, Repr

/-- The 13 rows of spec/opcode_table.json, in its order. -/
def opcodeRows : List OpRow :=
  [ ⟨"NOP", 0x000000000, 0x700000000⟩,
    ⟨"WRCFG", 0x100000000, 0x700000000⟩,
    ⟨"RDREG", 0x200000000, 0x700000008⟩,
    ⟨"RDREG", 0x200000008, 0x70000000F⟩,
    ⟨"CALC", 0x300000000, 0x700000000⟩,
    ⟨"RDROM", 0x400000000, 0x700000020⟩,
    ⟨"RDROM", 0x400000020, 0x700000030⟩,
    ⟨"reserved__BadOp", 0x500000000, 0x700000000⟩,
    ⟨"reserved__BadOp", 0x600000000, 0x600000000⟩,
    ⟨"reserved_RDREG_selector__BadSel", 0x200000009, 0x70000000F⟩,
    ⟨"reserved_RDREG_selector__BadSel", 0x20000000A, 0x70000000E⟩,
    ⟨"reserved_RDREG_selector__BadSel", 0x20000000C, 0x70000000C⟩,
    ⟨"reserved_RDROM_field__BadFld", 0x400000030, 0x700000030⟩ ]

/-- The word is one of the row's. -/
def OpRow.covers (r : OpRow) (w : ReqWord) : Bool := w &&& r.mask == r.bits

/-- The mnemonic of an operation, as spec/opcode_table.json spells it. -/
def Instr.mnemonic : Instr → String
  | .nop => "NOP"
  | .wrcfg _ _ => "WRCFG"
  | .rdreg _ => "RDREG"
  | .calcLux _ _ => "CALC"
  | .rdrom _ _ _ => "RDROM"
  | .badOp _ => "reserved__BadOp"
  | .badSel _ => "reserved_RDREG_selector__BadSel"
  | .badFld _ _ => "reserved_RDROM_field__BadFld"

end Sys2Proof
end

