-- ==== Sys2Proof/Machine/Build.lean ====
section
/-! DEFINITION. The build parameters at work: reading the breakpoint ROM, the constraints a build must meet, and
the default ROM (00_scope.md R4, 20_memory.md R40 to R47). -/

namespace Sys2Proof.Machine

/-- The eight entries of a table (20_memory.md R45). -/
def romTable (rom : BpRom) : Package → Vector RomEntry 8
  | .tFnCl => rom.tFnCl
  | .cs => rom.cs

/-- The word of an entry that a field names (20_memory.md R45). -/
def entryField (x : RomEntry) : RomField → RomWord
  | .k => x.k
  | .b => x.b
  | .m => x.m

/-- `RomRead(t, e, f)` with `e` the index IDX of entry number IDX + 1 (00_scope.md R9, 20_memory.md R45). -/
def romRead (rom : BpRom) (t : Package) (e : Fin 8) (f : RomField) : RomWord :=
  entryField ((romTable rom t).get e) f

/-- The entry number 1 to 8 of an index (30_encoding.md R67). -/
def entryNumber (e : Fin 8) : Nat := e.val + 1

/-- Constraints 3, 4 and 6 of 20_memory.md R47 on one table: K non-decreasing, K7 = K8, B and M at most 0x07FF. -/
abbrev tableLegal (rom : BpRom) (t : Package) : Prop :=
  (∀ e : Fin 7, (romRead rom t e.castSucc .k).toNat ≤ (romRead rom t e.succ .k).toNat) ∧
  romRead rom t 6 .k = romRead rom t 7 .k ∧
  (∀ e : Fin 8, (romRead rom t e .b).toNat ≤ 0x07FF ∧ (romRead rom t e .m).toNat ≤ 0x07FF)

/-- Every constraint of 20_memory.md R47; items 1 and 2 hold by the type of `BpRom`. -/
abbrev romLegal (rom : BpRom) : Prop :=
  tableLegal rom .tFnCl ∧ tableLegal rom .cs ∧
  romRead rom .tFnCl 0 .k = 0x0040 ∧ romRead rom .tFnCl 0 .b = 0x01F2 ∧ romRead rom .tFnCl 0 .m = 0x01BE

/-- A build the spec allows: a legal ROM (20_memory.md R47) and `CALC_LATENCY ≥ 1` (00_scope.md R4). -/
abbrev buildLegal (b : Build) : Prop := romLegal b.rom ∧ 1 ≤ b.calcLatency

/-- The default table T_FN_CL (20_memory.md R46). Entry 1 is the source's; the others are PRESUMED (log entry 3). -/
def defaultTFnCl : Vector RomEntry 8 :=
  #v[⟨0x0040, 0x01F2, 0x01BE⟩, ⟨0x0080, 0x0214, 0x02D1⟩, ⟨0x00C0, 0x023F, 0x037B⟩, ⟨0x0100, 0x0270, 0x03FE⟩,
     ⟨0x0138, 0x016F, 0x01FC⟩, ⟨0x019A, 0x00D2, 0x00FB⟩, ⟨0x029A, 0x0018, 0x0012⟩, ⟨0x029A, 0x0000, 0x0000⟩]

/-- The default table CS (20_memory.md R46). PRESUMED (log entry 3). -/
def defaultCs : Vector RomEntry 8 :=
  #v[⟨0x0043, 0x0204, 0x01AD⟩, ⟨0x0085, 0x0228, 0x02C1⟩, ⟨0x00C8, 0x0253, 0x0363⟩, ⟨0x010A, 0x0282, 0x03DF⟩,
     ⟨0x014D, 0x0177, 0x01DD⟩, ⟨0x019A, 0x0101, 0x0127⟩, ⟨0x029A, 0x0037, 0x002B⟩, ⟨0x029A, 0x0000, 0x0000⟩]

/-- The default BP_ROM (20_memory.md R46). -/
def defaultRom : BpRom := ⟨defaultTFnCl, defaultCs⟩

/-- The build of `State.reset`. DESIGN CHOICE (log entry 2): PACKAGE and CALC_LATENCY are open (00_scope.md R4);
no statement rests on the values chosen here. -/
def defaultBuild : Build := ⟨.tFnCl, defaultRom, 1⟩

end Sys2Proof.Machine
end

