-- ==== Sys2Proof/Machine/Regs.lean ====
section
/-! DEFINITION. The registers of LUXCALC (10_state.md R20): what each stores, the 32-bit word each reads as, and
their reset values. A hard-wired bit has no storage; it is computed here, in the one place a register is read. -/

namespace Sys2Proof.Machine

/-- The stored fields of CFG (10_state.md R23): INTEG and GAIN. -/
structure Cfg where
  integ : BitVec 2
  gain  : Bool
  deriving DecidableEq, Repr

/-- The stored fields of STATUS (10_state.md R32). -/
structure Status where
  err      : Bool
  luxValid : Bool
  clamp    : Bool
  ecode    : BitVec 2
  deriving DecidableEq, Repr

/-- The registers (10_state.md R20). Of SEG only bits [3:0] are stored (R31). -/
structure Regs where
  cfg     : Cfg
  lux     : Word
  sch0    : Word
  sch1    : Word
  chscale : Word
  ratio   : Word
  temp    : Word
  seg     : BitVec 4
  status  : Status
  deriving DecidableEq, Repr

/-- Why an operation takes the error outcome (60_exceptions.md R140). -/
inductive ErrReason where
  | badOp
  | badSel
  | badFld
  deriving DecidableEq, Repr

/-- CFG as a word: INTEG [1:0], GAIN [4], PKG [8] hard-wired to PACKAGE, every other bit 0
(10_state.md R23, R26, R27). -/
def cfgWord (package : Package) (c : Cfg) : Word :=
  0#23 ++ BitVec.ofBool (bitOfTable package) ++ 0#3 ++ BitVec.ofBool c.gain ++ 0#2 ++ c.integ

/-- STATUS as a word: ERR [0], LUXVALID [1], CLAMP [2], ECODE [5:4], every other bit 0 (10_state.md R32). -/
def statusWord (st : Status) : Word :=
  0#26 ++ st.ecode ++ 0#1 ++ BitVec.ofBool st.clamp ++ BitVec.ofBool st.luxValid ++ BitVec.ofBool st.err

/-- SEG as a word: the code in [3:0], every other bit 0 (10_state.md R31). -/
def segWord (seg : BitVec 4) : Word := 0#28 ++ seg

/-- The reset values of the registers (70_reset_and_hazards.md R160, 10_state.md R23 and R29 to R32). -/
def resetRegs : Regs where
  cfg     := ⟨2, false⟩
  lux     := 0
  sch0    := 0
  sch1    := 0
  chscale := 0
  ratio   := 0
  temp    := 0
  seg     := 15
  status  := ⟨false, false, false, 0⟩

/-- The registers in cycle `k` before the first reset: a draw for each (70_reset_and_hazards.md R163; log entry 7). -/
def powerOnRegs (k : Nat) : Regs where
  cfg     := ⟨(Config.powerOnWord k 0).extractLsb' 0 2, (Config.powerOnWord k 0).getLsbD 4⟩
  lux     := Config.powerOnWord k 1
  sch0    := Config.powerOnWord k 2
  sch1    := Config.powerOnWord k 3
  chscale := Config.powerOnWord k 4
  ratio   := Config.powerOnWord k 5
  temp    := Config.powerOnWord k 6
  seg     := (Config.powerOnWord k 7).extractLsb' 0 4
  status  := ⟨(Config.powerOnWord k 8).getLsbD 0, (Config.powerOnWord k 8).getLsbD 1, (Config.powerOnWord k 8).getLsbD 2,
    (Config.powerOnWord k 8).extractLsb' 4 2⟩

end Sys2Proof.Machine
end

