-- ==== Sys2Proof/Machine/State.lean ====
section
/-! DEFINITION. The state of LUXCALC: registers, the in-flight slot, the registered response, the build
parameters, and the port inputs the host will drive (10_state.md R20, R33; 00_scope.md R4). Plain data. -/

namespace Sys2Proof.Machine

/-- The in-flight slot while `busy = 1` (10_state.md R33). -/
structure InFlight where
  op   : BitVec 3
  data : Word
  /-- Edges left until the operation completes. -/
  rem  : Nat
  deriving DecidableEq, Repr

/-- The response outputs in a cycle with `rsp_valid = 1` (30_encoding.md R60, R63). -/
structure Response where
  err  : Bool
  data : Word
  deriving DecidableEq, Repr

/-- The inputs of the port at one rising edge (30_encoding.md R60). -/
structure PortIn where
  rst      : Bool
  reqValid : Bool
  op       : BitVec 3
  data     : Word
  deriving DecidableEq, Repr

/-- The whole state. -/
structure State where
  /-- PACKAGE, BP_ROM and CALC_LATENCY (00_scope.md R4): nothing changes them. -/
  build    : Build
  /-- CFG, LUX, SCH0, SCH1, CHSCALE, RATIO, TEMP, SEG and STATUS (10_state.md R20). -/
  regs     : Regs
  /-- The in-flight slot; `none` is `busy = 0` (10_state.md R33; log entry 6). -/
  inflight : Option InFlight
  /-- The response driven this cycle; `none` is `rsp_valid = 0` (10_state.md R33; log entry 5). -/
  rsp      : Option Response
  /-- `rst` was 1 at the last edge (30_encoding.md R62, 70_reset_and_hazards.md R162). -/
  lastRst  : Bool
  /-- There has been an edge with `rst = 1`; until then registers and port are unspecified (70_reset_and_hazards.md
  R163; log entry 7). -/
  wasReset : Bool
  /-- The inputs the host drives at the coming edges, the next one first (log entry 4). The model's own field. -/
  host     : List PortIn
  /-- How many cycles have drawn free values for `rsp_err` and `rsp_data` (log entry 16). The model's own field. -/
  draws    : Nat
  deriving DecidableEq, Repr

/-- The ways the machine can stop with a fault: none. LUXCALC has no trap and keeps running after an error
(60_exceptions.md R142, R146); an error outcome is a next state (R140). -/
inductive Fault where
  deriving DecidableEq, Repr

/-- The ways the model declines to go on. -/
inductive Refusal where
  /-- An operation whose meaning is not written yet. Raised by exec's rejected arms, of which there are none. Safe. -/
  | notModelled (mnemonic : String)
  /-- The build breaks 20_memory.md R47 or has CALC_LATENCY 0, and the spec asks a model to refuse it
  (R47, 93_implementation_defined.md section 2). Raised by every step of such a state. Safe (log entry 8). -/
  | illegalBuild
  deriving DecidableEq, Repr

/-- The state right after an edge with `rst = 1` (70_reset_and_hazards.md R160, R162). -/
def State.afterReset (b : Build) (host : List PortIn) (draws : Nat) : State where
  build    := b
  regs     := resetRegs
  inflight := none
  rsp      := none
  lastRst  := true
  wasReset := true
  host     := host
  draws    := draws

/-- The machine right after reset, with the build of log entry 2 and a host that offers nothing (log entry 4). -/
def State.reset : State := State.afterReset defaultBuild [] 0

end Sys2Proof.Machine
end

