-- ==== Sys2Proof/Machine/Flags.lean ====
section
/-! DEFINITION. Every way STATUS changes (10_state.md R32): the error outcome and CALC. Nothing else writes it. -/

namespace Sys2Proof.Machine

/-- The cause codes of ECODE (60_exceptions.md R140). -/
def errCode : ErrReason → BitVec 2
  | .badOp => 1
  | .badSel => 2
  | .badFld => 3

/-- The error outcome's flags: ERR set, ECODE the cause, LUXVALID and CLAMP kept (60_exceptions.md R140). -/
def statusAfterError (r : ErrReason) (st : Status) : Status := { st with err := true, ecode := errCode r }

/-- CALC's flags: LUXVALID set, CLAMP as computed, ERR and ECODE kept (41_lux_calc.md R116). -/
def statusAfterCalc (clamp : Bool) (st : Status) : Status := { st with luxValid := true, clamp := clamp }

end Sys2Proof.Machine
end

