-- ==== Sys2Proof/Machine/Operands.lean ====
section
/-! DEFINITION. The operands operations read: a register by name, and the implicit operands of CALC. -/

namespace Sys2Proof.Machine

/-- The word a register reads as (30_encoding.md R68, 40_access_ops.md R84). -/
def readReg (s : State) : RegName → Word
  | .cfg => cfgWord s.build.package s.regs.cfg
  | .lux => s.regs.lux
  | .status => statusWord s.regs.status
  | .seg => segWord s.regs.seg
  | .sch0 => s.regs.sch0
  | .sch1 => s.regs.sch1
  | .chscale => s.regs.chscale
  | .ratio => s.regs.ratio
  | .temp => s.regs.temp

/-- The numeric gain `16 * CFG.GAIN` (10_state.md R25). -/
def gainValue (gain : Bool) : Nat := 16 * gain.toNat

/-- The base of chScale that CFG.INTEG selects; code 3 takes the 402 ms base (10_state.md R24, 41_lux_calc.md R105). -/
def chScaleBase (integ : BitVec 2) : Nat :=
  if integ = 0 then 0x7517 else if integ = 1 then 0x0FE7 else 2 ^ 14

end Sys2Proof.Machine
end

