-- ==== Sys2Proof/Machine/Ops.lean ====
section
/-! DEFINITION. The shared operations on the state: driving a response, the error outcome, writing CFG, resetting,
and the plain passing of a clock edge. The breakpoint ROM is read by `romRead` (Machine/Build.lean). -/

namespace Sys2Proof.Machine

/-- What a meaning answers. -/
abbrev Result := Host.Outcome State Fault Refusal

/-- `respond(err, data)`: the one response of the operation (00_scope.md R9, 30_encoding.md R63). -/
def respond (err : Bool) (data : Word) (s : State) : State := { s with rsp := some ⟨err, data⟩ }

/-- `raise ErrResp(reason)`, the error outcome: ERR set, ECODE the cause, response (1, 0), nothing else
(60_exceptions.md R140, 00_scope.md R9). LUXCALC's only exception; it has no entry, no return and no saved state (R146, R147). -/
def raiseErr (r : ErrReason) (s : State) : State :=
  respond true 0 { s with regs := { s.regs with status := statusAfterError r s.regs.status } }

/-- Writing CFG: INTEG and GAIN are the only stored bits (40_access_ops.md R82, 10_state.md R26, R27). -/
def writeCfg (integ : BitVec 2) (gain : Bool) (s : State) : State :=
  { s with regs := { s.regs with cfg := ⟨integ, gain⟩ } }

/-- An edge with `rst = 1`: every register, the slot and the response take their reset values, an operation in
flight is discarded, the build is unchanged (70_reset_and_hazards.md R160, R161). -/
def resetEdge (s : State) : State := State.afterReset s.build s.host (s.draws + 1)

/-- What every edge with `rst = 0` does: the response of the last cycle ends, and the block is out of reset
(30_encoding.md R62, R63). A completing operation then drives its own response. -/
def tick (s : State) : State := { s with rsp := none, lastRst := false, draws := s.draws + 1 }

/-- Acceptance: the slot samples the request (30_encoding.md R62, 10_state.md R33). -/
def loadSlot (op : BitVec 3) (data : Word) (rem : Nat) (s : State) : State := { s with inflight := some ⟨op, data, rem⟩ }

/-- The slot empties (10_state.md R33: `busy <- 0`). -/
def freeSlot (s : State) : State := { s with inflight := none }

/-- Cycle `k` before the first reset: every register, the slot and the registers of the port any value, the build as
given (70_reset_and_hazards.md R163; log entry 7). -/
def unknownState (b : Build) (host : List PortIn) (k : Nat) : State where
  build    := b
  regs     := powerOnRegs k
  inflight := if (Config.powerOnWord k 9).getLsbD 0 then
      some ⟨(Config.powerOnWord k 9).extractLsb' 1 3, Config.powerOnWord k 10, (Config.powerOnWord k 11).toNat⟩ else none
  rsp      := if (Config.powerOnWord k 12).getLsbD 0 then
      some ⟨(Config.powerOnWord k 12).getLsbD 1, Config.powerOnWord k 13⟩ else none
  lastRst  := (Config.powerOnWord k 14).getLsbD 0
  wasReset := false
  host     := host
  draws    := k

/-- The block when power comes on. -/
def powerOn (b : Build) (host : List PortIn) : State := unknownState b host 0

/-- An edge with `rst = 0` before the first reset: everything is drawn anew, whatever the host offered, so that no
register and no output of any cycle before the first reset is known (70_reset_and_hazards.md R163; log entry 7). -/
def unknownEdge (s : State) : State := unknownState s.build s.host (s.draws + 1)

end Sys2Proof.Machine
end

