-- ==== Sys2Proof/Machine/Access.lean ====
section
/-! DEFINITION. The operations that do not compute: NOP, WRCFG, RDREG, RDROM (40_access_ops.md). -/

namespace Sys2Proof.Machine

/-- NOP responds 0 and changes nothing (40_access_ops.md R80). -/
def execNop (s : State) : Result := .next (respond false 0 s)

/-- WRCFG writes INTEG and GAIN and responds the new CFG (40_access_ops.md R82). -/
def execWrcfg (integ : BitVec 2) (gain : Bool) (s : State) : Result :=
  .next (respond false (readReg (writeCfg integ gain s) .cfg) (writeCfg integ gain s))

/-- RDREG responds the register's word (40_access_ops.md R84). -/
def execRdreg (r : RegName) (s : State) : Result := .next (respond false (readReg s r) s)

/-- RDROM responds the ROM word of entry IDX + 1, zero-extended (40_access_ops.md R86). -/
def execRdrom (tbl : Package) (idx : BitVec 3) (fld : RomField) (s : State) : Result :=
  .next (respond false ((romRead s.build.rom tbl idx.toFin fld).setWidth 32) s)

end Sys2Proof.Machine
end

