-- ==== Sys2Proof/Machine/Calc.lean ====
section
/-! DEFINITION. CALC, the lux computation, step by step as 41_lux_calc.md R104 to R116 give it. Every value is an
exact integer (00_scope.md R8) and is narrowed to 32 bits only where it is written (R118 says nothing is lost). -/

namespace Sys2Proof.Machine

/-- Steps 1 and 2: `cs = base * g` (41_lux_calc.md R105). -/
def chScale (c : Cfg) : Nat := chScaleBase c.integ * gainValue c.gain

/-- Step 3: `(ch * cs) >> 14` (R106). -/
def scaled (ch : Channel) (cs : Nat) : Nat := (ch.toNat * cs) >>> 14

/-- Step 4: the raw ratio, 0 when `sc0 = 0` (R107). -/
def rawRatio (sc0 sc1 : Nat) : Nat := if sc0 = 0 then 0 else (sc1 <<< 10) / sc0

/-- Step 5: `(r0 + 1) >> 1` (R108). -/
def roundRatio (r0 : Nat) : Nat := (r0 + 1) >>> 1

/-- What the scan of the table finds: the entry number (0 for none) and its coefficients (R110, R111). -/
structure Selection where
  seg : Nat
  b   : Nat
  m   : Nat
  deriving DecidableEq, Repr

/-- The entries in the order CALC scans them, as indices IDX of entry numbers 1 to 8 (R110). -/
def scanOrder : List (Fin 8) := [0, 1, 2, 3, 4, 5, 6, 7]

/-- Step 6 from a list of entries on: the first with `K ≥ ratio`; (0, 0, 0) if there is none (R110, R111). -/
def scanEntries (rom : BpRom) (t : Package) (ratio : Nat) : List (Fin 8) → Selection
  | [] => ⟨0, 0, 0⟩
  | e :: es =>
    if ratio ≤ (romRead rom t e .k).toNat then
      ⟨entryNumber e, (romRead rom t e .b).toNat, (romRead rom t e .m).toNat⟩
    else scanEntries rom t ratio es

/-- Step 6: segment selection (R110, R111). -/
def selectEntry (rom : BpRom) (t : Package) (ratio : Nat) : Selection := scanEntries rom t ratio scanOrder

/-- Step 7: `temp = sc0 * B - sc1 * M`, signed (R113). -/
def tempOf (sc0 sc1 : Nat) (sel : Selection) : Int := (sc0 : Int) * sel.b - (sc1 : Int) * sel.m

/-- Steps 8 and 9: `(tc + (1 << 13)) >> 14` (R114, R115). -/
def luxOf (tc : Nat) : Nat := (tc + 2 ^ 13) >>> 14

/-- The values CALC writes (R116), as exact integers. -/
structure LuxCalc where
  cs    : Nat
  sc0   : Nat
  sc1   : Nat
  ratio : Nat
  seg   : Nat
  clamp : Bool
  tc    : Nat
  lux   : Nat
  deriving DecidableEq, Repr

/-- The whole computation as a function of its inputs alone (R100, R101, R109, R122). `Int.toNat` of `temp` is
`max(temp, 0)` (R113). -/
def luxCalc (b : Build) (c : Cfg) (ch0 ch1 : Channel) : LuxCalc :=
  let cs := chScale c
  let sc0 := scaled ch0 cs
  let sc1 := scaled ch1 cs
  let ratio := roundRatio (rawRatio sc0 sc1)
  let sel := selectEntry b.rom b.package ratio
  let temp := tempOf sc0 sc1 sel
  { cs := cs, sc0 := sc0, sc1 := sc1, ratio := ratio, seg := sel.seg, clamp := decide (temp < 0),
    tc := temp.toNat, lux := luxOf temp.toNat }

/-- CALC's writes, all at once (R116). -/
def commitCalc (v : LuxCalc) (s : State) : State :=
  { s with regs :=
    { cfg := s.regs.cfg, lux := BitVec.ofNat 32 v.lux, sch0 := BitVec.ofNat 32 v.sc0, sch1 := BitVec.ofNat 32 v.sc1,
      chscale := BitVec.ofNat 32 v.cs, ratio := BitVec.ofNat 32 v.ratio, temp := BitVec.ofNat 32 v.tc,
      seg := BitVec.ofNat 4 v.seg, status := statusAfterCalc v.clamp s.regs.status } }

/-- CALC: compute, commit, respond lux (R100, R116). -/
def execCalc (ch0 ch1 : Channel) (s : State) : Result :=
  .next (respond false (BitVec.ofNat 32 (luxCalc s.build s.regs.cfg ch0 ch1).lux)
    (commitCalc (luxCalc s.build s.regs.cfg ch0 ch1) s))

end Sys2Proof.Machine
end

