-- ==== Sys2Proof/Machine/Reserved.lean ====
section
/-! DEFINITION. The reserved encodings, which take the error outcome (60_exceptions.md R140, 30_encoding.md R70).
Neither the opcode nor the data is recorded. -/

namespace Sys2Proof.Machine

/-- A reserved opcode: BadOp, ECODE 1 (60_exceptions.md R140). -/
def execBadOp (_op : BitVec 3) (s : State) : Result := .next (raiseErr .badOp s)

/-- A reserved RDREG selector: BadSel, ECODE 2 (60_exceptions.md R140, 40_access_ops.md R84). -/
def execBadSel (_sel : BitVec 4) (s : State) : Result := .next (raiseErr .badSel s)

/-- The reserved RDROM field code: BadFld, ECODE 3 (60_exceptions.md R140, 40_access_ops.md R86). -/
def execBadFld (_tbl : Package) (_idx : BitVec 3) (s : State) : Result := .next (raiseErr .badFld s)

end Sys2Proof.Machine
end

