-- ==== Sys2Proof/Machine/Dispatch.lean ====
section
/-! DEFINITION. exec: one arm per operation (30_encoding.md R66). -/

namespace Sys2Proof.Machine

def exec (i : Instr) (s : State) : Host.Outcome State Fault Refusal :=
  match i with
  | .nop => Sys2Proof.Machine.execNop s
  | .wrcfg integ gain => Sys2Proof.Machine.execWrcfg integ gain s
  | .rdreg r => Sys2Proof.Machine.execRdreg r s
  | .calcLux ch0 ch1 => Sys2Proof.Machine.execCalc ch0 ch1 s
  | .rdrom tbl idx fld => Sys2Proof.Machine.execRdrom tbl idx fld s
  | .badOp op => Sys2Proof.Machine.execBadOp op s
  | .badSel sel => Sys2Proof.Machine.execBadSel sel s
  | .badFld tbl idx => Sys2Proof.Machine.execBadFld tbl idx s

end Sys2Proof.Machine
end

