-- ==== Sys2Proof/Machine/Port.lean ====
section
/-! DEFINITION. The request/response port, one rising clock edge at a time (30_encoding.md R60 to R64,
60_exceptions.md R145, 70_reset_and_hazards.md R160 to R162). Input is the port's inputs at the edge; the outputs of
the cycle that follows are read from the state by `pins`. -/

namespace Sys2Proof.Machine

/-- The block can accept a request: it has been reset, nothing is in flight, and `rst` was 0 at the last edge
(30_encoding.md R62, 70_reset_and_hazards.md R162, R163). -/
def reqReady (s : State) : Bool := s.wasReset && (s.inflight.isNone && !s.lastRst)

/-- What the output `req_ready` shows: before the first reset, any value (70_reset_and_hazards.md R163, log entry 7). -/
def readyPin (s : State) : Bool := if s.wasReset then reqReady s else Config.freeReqReady s.draws

/-- The outputs of the port in one cycle (30_encoding.md R60). -/
structure PortOut where
  reqReady : Bool
  rspValid : Bool
  rspErr   : Bool
  rspData  : Word
  deriving DecidableEq, Repr

/-- The outputs, functions of registered state alone (30_encoding.md R61); without a response `rsp_err` and
`rsp_data` are free values (10_state.md R33, log entry 5), and before the first reset every one is (log entry 7). -/
def pins (s : State) : PortOut :=
  match s.rsp with
  | some r => ⟨readyPin s, true, r.err, r.data⟩
  | none => ⟨readyPin s, false, Config.freeRspErr s.draws, Config.freeRspData s.draws⟩

/-- Edges from acceptance to completion (30_encoding.md R64, 70_reset_and_hazards.md R168). -/
def latency (b : Build) (op : BitVec 3) : Nat := if op = 3 then b.calcLatency else 1

/-- The operation in the slot (30_encoding.md R65, R66). -/
def slotInstr (f : InFlight) : Instr := decode (requestWord f.op f.data)

/-- An edge at which an operation is in flight: one edge fewer to go, or completion, where its writes commit and
its response is driven (10_state.md R28, R33). -/
def inFlightEdge (f : InFlight) (s : State) : Result :=
  if f.rem ≤ 1 then exec (slotInstr f) (freeSlot (tick s)) else .next (loadSlot f.op f.data (f.rem - 1) (tick s))

/-- An edge with nothing in flight: a request is accepted if the block is ready (30_encoding.md R62). -/
def idleEdge (p : PortIn) (s : State) : Result :=
  if reqReady s && p.reqValid then .next (loadSlot p.op p.data (latency s.build p.op) (tick s)) else .next (tick s)

/-- One rising edge of `clk`. Reset wins over everything (60_exceptions.md R145); before the first one nothing is
specified (70_reset_and_hazards.md R163). -/
def edge (p : PortIn) (s : State) : Result :=
  if p.rst then .next (resetEdge s)
  else if s.wasReset then
    match s.inflight with
    | some f => inFlightEdge f s
    | none => idleEdge p s
  else .next (unknownEdge s)

/-- The inputs of a host that does nothing (log entry 4). -/
def idleInput : PortIn := ⟨false, false, 0, 0⟩

/-- What the host drives at the next edge; nothing once its list is used up (log entry 4). -/
def nextInput (s : State) : PortIn := s.host.headD idleInput

/-- The state with that edge's inputs taken from the host's list. -/
def takeInput (s : State) : State := { s with host := s.host.tail }

/-- One edge of a machine whose build the spec allows; any other build is refused (20_memory.md R47, log entry 8). -/
def clockEdge (s : State) : Result :=
  if buildLegal s.build then edge (nextInput s) (takeInput s) else .refused .illegalBuild

/-- The machine, taken to have been reset, with a request in its slot that completes at the next edge, at which the
host drives nothing (log entry 1). -/
def withRequest (s : State) (op : BitVec 3) (data : Word) : State :=
  { s with inflight := some ⟨op, data, 1⟩, rsp := none, lastRst := false, wasReset := true, host := idleInput :: s.host }

/-- The same for a number whose bits are those of a request word (log entry 18). -/
def placeWord (s : State) (w : Nat) : State :=
  withRequest s (opField (BitVec.ofNat 35 w)) (dataField (BitVec.ofNat 35 w))

end Sys2Proof.Machine
end

