-- ==== Sys2Proof/Machine/Step.lean ====
section
/-! DEFINITION. The step: one rising edge of the clock (log entry 1). LUXCALC fetches no instruction and has no
program counter (10_state.md R22): an operation comes to run by being accepted on the port, and `withFetchWord`
stands for a request accepted earlier and due at the next edge. -/

namespace Sys2Proof.Machine

/-- One rising edge of `clk`, with the inputs the host's list gives. -/
def step (s : State) : Host.Outcome State Fault Refusal := clockEdge s

/-- `s` with the request word `w` in the in-flight slot, due at the next edge (log entry 1). -/
def State.withFetchWord (s : State) (_nbits w : Nat) : State := placeWord s w

end Sys2Proof.Machine
end

