-- ==== Sys2Proof/Machine/Asm.lean ====
section
/-! DEFINITION. The assembler syntax of a request, its text form, and how requests and responses are written
(30_encoding.md R72, R73); and the CALC data word a host makes from sensor bytes (20_memory.md R43). -/

namespace Sys2Proof.Machine

/-- One request as it stands on the port (30_encoding.md R60). -/
structure Request where
  op   : BitVec 3
  data : Word
  deriving DecidableEq, Repr

/-- The request of an operation. -/
def requestOf (i : Instr) : Request := ⟨opOf i, dataOf i⟩

/-- The operation a request asks for. -/
def Request.instr (r : Request) : Instr := decode (requestWord r.op r.data)

/-- A line of the assembler (30_encoding.md R72), and the pseudo-instructions of R73. -/
inductive AsmLine where
  | nop
  | wrcfg (gain tint : Nat)
  | wrcfgImm (imm : Nat)
  | rdreg (r : RegName)
  | rdregImm (imm : Nat)
  | calcChannels (ch0 ch1 : Nat)
  | calcImm (imm : Nat)
  | rdrom (tbl : Package) (e : Nat) (fld : RomField)
  | rdromImm (imm : Nat)
  | req (op imm : Nat)
  | setGain (gain : Nat)
  | setTiming (tint : Nat)
  deriving DecidableEq, Repr

/-- The GAIN bit of a gain value; only 0 and 16 are permitted (R72, 10_state.md R25). -/
def gainBit (gain : Nat) : Option Bool := if gain = 0 then some false else if gain = 16 then some true else none

/-- `code(T)`: the INTEG code of an integration time in ms (R72, 10_state.md R24). -/
def timingCode (tint : Nat) : Option (BitVec 2) :=
  if tint = 13 then some 0 else if tint = 101 then some 1 else if tint = 402 then some 2 else none

/-- A number that fits a data word. -/
def word32 (n : Nat) : Option Word := if n < 2 ^ 32 then some (BitVec.ofNat 32 n) else none

/-- The word a line assembles to; `none` for an operand R72 does not list, and for a pseudo-instruction, which is
two requests (R73). -/
def assemble : AsmLine → Option Request
  | .nop => some (requestOf .nop)
  | .wrcfg gain tint => (gainBit gain).bind fun g => (timingCode tint).map fun c => requestOf (.wrcfg c g)
  | .wrcfgImm imm => (word32 imm).map fun d => ⟨1, d⟩
  | .rdreg r => some (requestOf (.rdreg r))
  | .rdregImm imm => (word32 imm).map fun d => ⟨2, d⟩
  | .calcChannels ch0 ch1 =>
    if ch0 < 2 ^ 16 ∧ ch1 < 2 ^ 16 then some (requestOf (.calcLux (BitVec.ofNat 16 ch0) (BitVec.ofNat 16 ch1))) else none
  | .calcImm imm => (word32 imm).map fun d => ⟨3, d⟩
  | .rdrom tbl e fld =>
    if 1 ≤ e ∧ e ≤ 8 then some (requestOf (.rdrom tbl (BitVec.ofNat 3 (e - 1)) fld)) else none
  | .rdromImm imm => (word32 imm).map fun d => ⟨4, d⟩
  | .req op imm => if op < 8 then (word32 imm).map fun d => ⟨BitVec.ofNat 3 op, d⟩ else none
  | .setGain _ => none
  | .setTiming _ => none

/-- The second half of SETGAIN: `WRCFG #((c & 0x3) | (G == 16 ? 0x10 : 0))` (R73). -/
def setGainRequest (gain : Bool) (c : Word) : Request := ⟨1, (c &&& 0x3) ||| (if gain then 0x10 else 0)⟩

/-- The second half of SETTIMING: `WRCFG #((c & 0x10) | code(T))` (R73). -/
def setTimingRequest (code : BitVec 2) (c : Word) : Request := ⟨1, (c &&& 0x10) ||| code.setWidth 32⟩

/-- The CALC data word from the sensor's bytes, a duty of the host (20_memory.md R43). -/
def sensorWord (ch1Msb ch1Lsb ch0Msb ch0Lsb : BitVec 8) : Word := ch1Msb ++ ch1Lsb ++ ch0Msb ++ ch0Lsb

/-- Characters that end a word of a line (log entry 19). -/
def isSeparator (c : Char) : Bool := c == ' ' || c == '\t' || c == ','

/-- The words of a line in lower case, as text is case-insensitive (R72); `acc` is the word being read, reversed. -/
def splitWords : List Char → List Char → List String
  | [], acc => if acc = [] then [] else [String.ofList acc.reverse]
  | c :: cs, acc =>
    if isSeparator c then (if acc = [] then splitWords cs [] else String.ofList acc.reverse :: splitWords cs [])
    else splitWords cs (c.toLower :: acc)

/-- The value of a digit in lower case, below the base. -/
def digitValue (base : Nat) (c : Char) : Option Nat :=
  let n := if '0' ≤ c ∧ c ≤ '9' then some (c.toNat - '0'.toNat)
    else if 'a' ≤ c ∧ c ≤ 'f' then some (c.toNat - 'a'.toNat + 10) else none
  n.bind fun v => if v < base then some v else none

/-- Digits from the most significant on. -/
def digitsValue (base : Nat) : List Char → Nat → Option Nat
  | [], n => some n
  | c :: cs, n => (digitValue base c).bind fun v => digitsValue base cs (n * base + v)

/-- A number, decimal or `0x` hexadecimal (R72). -/
def parseNumber : List Char → Option Nat
  | [] => none
  | '0' :: 'x' :: d :: ds => digitsValue 16 (d :: ds) 0
  | c :: cs => digitsValue 10 (c :: cs) 0

/-- What follows `start` in a word. -/
def dropStart : List Char → List Char → Option (List Char)
  | [], w => some w
  | _ :: _, [] => none
  | a :: as, c :: cs => if a = c then dropStart as cs else none

/-- A word that is `start` followed by a number, such as `gain=16` or `#0x12`. -/
def numberAfter (start w : String) : Option Nat := (dropStart start.toList w.toList).bind parseNumber

/-- A register's name in lower case (R72). -/
def regOfText (w : String) : Option RegName :=
  ([("cfg", .cfg), ("lux", .lux), ("status", .status), ("seg", .seg), ("sch0", .sch0), ("sch1", .sch1),
    ("chscale", .chscale), ("ratio", .ratio), ("temp", .temp)] : List (String × RegName)).lookup w

/-- A table's name in lower case: T or CS (R72). -/
def tableOfText (w : String) : Option Package := if w = "t" then some .tFnCl else if w = "cs" then some .cs else none

/-- A field's name in lower case (R72). -/
def fieldOfText (w : String) : Option RomField :=
  if w = "k" then some .k else if w = "b" then some .b else if w = "m" then some .m else none

/-- A mnemonic and one operand word. -/
def parseOne (m a : String) : Option AsmLine :=
  if m = "wrcfg" then (numberAfter "#" a).map .wrcfgImm
  else if m = "rdreg" then
    match regOfText a with
    | some r => some (.rdreg r)
    | none => (numberAfter "#" a).map .rdregImm
  else if m = "calc" then (numberAfter "#" a).map .calcImm
  else if m = "rdrom" then (numberAfter "#" a).map .rdromImm
  else if m = "setgain" then (numberAfter "" a).map .setGain
  else if m = "settiming" then (numberAfter "" a).map .setTiming
  else none

/-- A mnemonic and two operand words. -/
def parseTwo (m a b : String) : Option AsmLine :=
  if m = "wrcfg" then (numberAfter "gain=" a).bind fun g => (numberAfter "tint=" b).map fun t => .wrcfg g t
  else if m = "calc" then (numberAfter "ch0=" a).bind fun x => (numberAfter "ch1=" b).map fun y => .calcChannels x y
  else if m = ".req" then (numberAfter "" a).bind fun o => (numberAfter "" b).map fun d => .req o d
  else none

/-- One line of text (R72; log entry 19). -/
def parseLine (line : String) : Option AsmLine :=
  match splitWords line.toList [] with
  | ["nop"] => some .nop
  | [m, a] => parseOne m a
  | [m, a, b] => parseTwo m a b
  | [m, t, e, f] =>
    if m = "rdrom" then
      (tableOfText t).bind fun t => (numberAfter "" e).bind fun e => (fieldOfText f).map fun f => .rdrom t e f
    else none
  | _ => none

/-- A hexadecimal digit in upper case. -/
def hexDigit (n : Nat) : Char := Char.ofNat (if n < 10 then n + 48 else n + 55)

/-- The `k` low hexadecimal digits of a number. -/
def hexDigits : Nat → Nat → List Char
  | 0, _ => []
  | k + 1, n => hexDigits k (n / 16) ++ [hexDigit (n % 16)]

/-- A request as text, `op:data` (R72). -/
def Request.text (r : Request) : String :=
  String.ofList (hexDigits 1 r.op.toNat ++ [':', '0', 'x'] ++ hexDigits 8 r.data.toNat)

/-- A response as text, `-> ok 0xVVVVVVVV` or `-> err` (R72). -/
def responseText (err : Bool) (data : Word) : String :=
  if err then "-> err" else String.ofList ("-> ok 0x".toList ++ hexDigits 8 data.toNat)

end Sys2Proof.Machine
end

