-- ==== Sys2Proof/Machine/Pseudo.lean ====
section
/-! DEFINITION. Sequences of operations as the host issues them: one after the other, the pseudo-instructions, and
the inputs with which a patient host presents a list of requests (30_encoding.md R62, R73; 20_memory.md R51). -/

namespace Sys2Proof.Machine

/-- One operation as one atomic transition (10_state.md R28): what its acceptance and completion do to a ready block,
less the passing of time. -/
def operate (r : Request) (s : State) : Result := exec r.instr s

/-- Operations one after the other, in acceptance order (20_memory.md R51). -/
def operateAll : List Request → State → Result
  | [], s => .next s
  | r :: rs, s =>
    match operate r s with
    | .next t => operateAll rs t
    | .fault f => .fault f
    | .refused q => .refused q

/-- A request made from the response to the one before: `RDREG CFG`, then the request `f` makes of its data. -/
def readModifyCfg (f : Word → Request) (s : State) : Result :=
  match operate (requestOf (.rdreg .cfg)) s with
  | .next t => operate (f ((t.rsp.map Response.data).getD 0)) t
  | .fault q => .fault q
  | .refused q => .refused q

/-- SETGAIN: two operations (30_encoding.md R73). -/
def setGain (gain : Bool) (s : State) : Result := readModifyCfg (setGainRequest gain) s

/-- SETTIMING: two operations (30_encoding.md R73). -/
def setTiming (code : BitVec 2) (s : State) : Result := readModifyCfg (setTimingRequest code) s

/-- `n` clock edges, one after the other, up to the first stop. -/
def runEdges : Nat → State → Result
  | 0, s => .next s
  | n + 1, s =>
    match step s with
    | .next t => runEdges n t
    | .fault f => .fault f
    | .refused q => .refused q

/-- A request offered at one edge. -/
def offer (r : Request) : PortIn := ⟨false, true, r.op, r.data⟩

/-- The inputs with which a host offers each request at an edge where the block is ready, and waits for its
response: one edge to accept, then as many as the operation's latency (30_encoding.md R64). -/
def schedule (b : Build) : List Request → List PortIn
  | [] => []
  | r :: rs => offer r :: (List.replicate (latency b r.op) idleInput ++ schedule b rs)

end Sys2Proof.Machine
end

