-- ==== Sys2Proof/Safety.lean ====
section
/-! DEFINITION. What holds in every state a reset block can reach, and when a run is over (finished, or cut by
reset): the terms claims use. -/

namespace Sys2Proof.Machine

/-- The results of the last CALC agree with each other and with STATUS (10_state.md R29 to R32, 41_lux_calc.md R105,
R107, R108, R113 to R116, R118). -/
structure RegsInv (g : Regs) : Prop where
  /-- ECODE is 0 exactly while no error has occurred since reset (10_state.md R32). -/
  ecode_iff     : g.status.err = true ↔ g.status.ecode ≠ 0
  /-- SEG is 15 exactly while no CALC has completed since reset (10_state.md R31, R32). -/
  seg_iff       : g.status.luxValid = false ↔ g.seg = 15
  /-- SEG is 15, 0, or an entry other than 8 (10_state.md R31, 41_lux_calc.md R112). -/
  seg_legal     : g.seg.toNat ≤ 7 ∨ g.seg = 15
  /-- Until a CALC completes the results are 0. -/
  before_calc   : g.status.luxValid = false → g.chscale = 0 ∧ g.sch0 = 0 ∧ g.sch1 = 0 ∧ g.temp = 0 ∧ g.status.clamp = false
  /-- No entry found gives TEMP 0 (41_lux_calc.md R111). -/
  none_found    : g.seg = 0 → g.temp = 0
  /-- A clamped CALC leaves TEMP 0 (41_lux_calc.md R113). -/
  clamped       : g.status.clamp = true → g.temp = 0
  /-- LUX is TEMP rounded and scaled down (41_lux_calc.md R114, R115). -/
  lux_eq        : g.lux.toNat = (g.temp.toNat + 8192) / 16384
  /-- RATIO is the rounded ratio of the scaled channels (41_lux_calc.md R107, R108). -/
  ratio_eq      : g.ratio.toNat = ((if g.sch0.toNat = 0 then 0 else g.sch1.toNat * 1024 / g.sch0.toNat) + 1) / 2
  /-- CHSCALE is one of the four values of 41_lux_calc.md R105. -/
  chscale_legal : g.chscale.toNat = 0 ∨ g.chscale.toNat = 65136 ∨ g.chscale.toNat = 262144 ∨ g.chscale.toNat = 479600
  /-- The ranges of 41_lux_calc.md R118. -/
  sch0_le       : g.sch0.toNat ≤ 1918370
  sch1_le       : g.sch1.toNat ≤ 1918370
  temp_le       : g.temp.toNat ≤ 3926903390

/-- The invariant of a block that has been reset once. -/
structure BlockInv (s : State) : Prop where
  /-- The build is one the spec allows (20_memory.md R47, 00_scope.md R4). -/
  build_legal : buildLegal s.build
  /-- There has been a reset (70_reset_and_hazards.md R163). -/
  was_reset   : s.wasReset = true
  regs_inv    : RegsInv s.regs
  /-- An operation in flight has from 1 to its latency edges to go (10_state.md R33, 30_encoding.md R64). -/
  slot_rem    : ∀ f, s.inflight = some f → 1 ≤ f.rem ∧ f.rem ≤ latency s.build f.op
  /-- No response is driven while an operation is in flight (30_encoding.md R63, R64). -/
  slot_quiet  : ∀ f, s.inflight = some f → s.rsp = none ∧ s.lastRst = false
  /-- An error response has data 0 and leaves ERR set (60_exceptions.md R140). -/
  err_rsp     : ∀ r, s.rsp = some r → r.err = true → r.data = 0 ∧ s.regs.status.err = true
  /-- After an edge with `rst = 1` everything is at its reset value (70_reset_and_hazards.md R160). -/
  after_rst   : s.lastRst = true → s.regs = resetRegs ∧ s.inflight = none ∧ s.rsp = none

/-- The inputs still to come at which the block could accept a request of the run at hand: those before the next
reset, which would end the run, less the edge right after a reset (30_encoding.md R62, 70_reset_and_hazards.md R162). -/
def openInputs (s : State) : List PortIn :=
  (s.host.takeWhile fun p => !p.rst).drop (if s.lastRst then 1 else 0)

/-- The run at hand is finished: nothing is in flight, so that every accepted request has responded, and no further
request of the run will be accepted (70_reset_and_hazards.md R169). A later reset does not matter. -/
def RunFinished (s : State) : Prop :=
  s.wasReset = true ∧ s.inflight = none ∧ ∀ p ∈ openInputs s, p.reqValid = false

/-- The run from `s` was cut by reset: the last of its `n` edges, and no earlier one, had `rst = 1`
(70_reset_and_hazards.md R169). -/
def RunInterrupted (s : State) (n : Nat) : Prop :=
  ∃ (ins : List PortIn) (p : PortIn) (rest : List PortIn), s.host = ins ++ p :: rest ∧ n = ins.length + 1 ∧
    (∀ q ∈ ins, q.rst = false) ∧ p.rst = true

/-- The run from `s` is over after `n` edges, in `t`: it finished with no reset on the way, or the `n`th edge is the
reset that ends it (70_reset_and_hazards.md R169). -/
def RunOver (s : State) (n : Nat) (t : State) : Prop :=
  runEdges n s = .next t ∧ (((∀ p ∈ s.host.take n, p.rst = false) ∧ RunFinished t) ∨ RunInterrupted s n)

end Sys2Proof.Machine
end

