-- ==== Sys2Proof/Certificates/Slice0/Obligations.lean ====
section
/-! DEFINITION. The statements about LUXCALC. Each docstring names the rule of spec/ it comes from. A statement over
every state is a statement over every PACKAGE, BP_ROM and CALC_LATENCY, as State holds the build (log entry 2). -/

open Sys2Proof Sys2Proof.Machine

/-! ### Encoding -/

/-- Decoding an encoded operation gives the operation back, every operand at every value (30_encoding.md R65 to R70). -/
def Obligations.DecodeOfEncodeIsTheInstruction : Prop :=
  ∀ i : Instr, i.wellFormed = true → decode (encode i) = i

/-- Every request word lies in exactly one row of the opcode table, and decodes to that row's operation
(30_encoding.md R66, spec/opcode_table.json). -/
def Obligations.EveryWordHasOneTableRow : Prop :=
  ∀ w : ReqWord, ∃ r ∈ opcodeRows, r.covers w = true ∧ (decode w).mnemonic = r.mnemonic ∧
    ∀ r' ∈ opcodeRows, r'.covers w = true → r' = r

/-- What the decoder makes of a word is an operation with operands the encoding admits (30_encoding.md R66, R70). -/
def Obligations.DecodedInstructionIsWellFormed : Prop :=
  ∀ w : ReqWord, (decode w).wellFormed = true

/-- The opcode map and the operand fields, by arithmetic on the word's number: op is `n / 2^32`, the data word
`n % 2^32`, and a field is a quotient and a remainder (30_encoding.md R65, R66, R67, R68, R69). -/
def Obligations.OpcodeMapAndOperandFields : Prop :=
  ∀ w : ReqWord, ∀ d, d = w.toNat % 2 ^ 32 →
    (w.toNat / 2 ^ 32 = 0 → decode w = .nop) ∧
    (w.toNat / 2 ^ 32 = 1 → ∃ integ gain, decode w = .wrcfg integ gain ∧ integ.toNat = d % 4 ∧ gain.toNat = d / 16 % 2) ∧
    (w.toNat / 2 ^ 32 = 2 → d % 16 ≤ 8 → ∃ r, decode w = .rdreg r ∧
      [RegName.cfg, .lux, .status, .seg, .sch0, .sch1, .chscale, .ratio, .temp][d % 16]? = some r) ∧
    (w.toNat / 2 ^ 32 = 2 → 9 ≤ d % 16 → ∃ sel, decode w = .badSel sel ∧ sel.toNat = d % 16) ∧
    (w.toNat / 2 ^ 32 = 3 → ∃ ch0 ch1, decode w = .calcLux ch0 ch1 ∧ ch0.toNat = d % 2 ^ 16 ∧ ch1.toNat = d / 2 ^ 16) ∧
    (w.toNat / 2 ^ 32 = 4 → d / 16 % 4 ≤ 2 → ∃ idx f, decode w = .rdrom (if d / 8 % 2 = 0 then .tFnCl else .cs) idx f ∧
      idx.toNat = d % 8 ∧ [RomField.k, .b, .m][d / 16 % 4]? = some f) ∧
    (w.toNat / 2 ^ 32 = 4 → d / 16 % 4 = 3 → ∃ idx, decode w = .badFld (if d / 8 % 2 = 0 then .tFnCl else .cs) idx ∧
      idx.toNat = d % 8) ∧
    (5 ≤ w.toNat / 2 ^ 32 → ∃ op, decode w = .badOp op ∧ op.toNat = w.toNat / 2 ^ 32)

/-- Two words of one opcode decode alike exactly when they agree on the bits the format does not ignore
(30_encoding.md R65, R70): 0x13 for C, 0xF for S, all for P, 0x3F for R, none for N. -/
def Obligations.ExactlyTheIgnoredBitsAreIgnored : Prop :=
  ∀ (op : BitVec 3) (d d' used : Word),
    used = (if op = 1 then 0x13 else if op = 2 then 0xF else if op = 3 then 0xFFFFFFFF else if op = 4 then 0x3F else 0) →
    (decode (requestWord op d) = decode (requestWord op d') ↔ d &&& used = d' &&& used)

/-- Words written out from the spec's encodings decode to what they stand for (30_encoding.md R65, R66; the
examples of 40_access_ops.md R80 to R86 and 41_lux_calc.md R100). -/
def Obligations.WrittenOutWordsDecode : Prop :=
  decode 0x000000000 = .nop ∧
  decode 0x100000012 = .wrcfg 2 true ∧
  decode 0x200000009 = .badSel 9 ∧
  decode 0x200000000 = .rdreg .cfg ∧
  decode 0x3006403E8 = .calcLux 1000 100 ∧
  decode 0x400000010 = .rdrom .tFnCl 0 .b ∧
  decode 0x40000000F = .rdrom .cs 7 .k ∧
  decode 0x40000003F = .badFld .cs 7 ∧
  decode 0x612345678 = .badOp 6

/-- The assembler, line by line as 30_encoding.md R72 lists them (a line as syntax, `AsmLine`): the word each makes with
listed operands, what that word decodes to, and no word for an operand that is not listed or for a line that is two
requests (R73). -/
def Obligations.AssembledLinesDecode : Prop :=
  (assemble .nop = some ⟨0, 0⟩ ∧ Request.instr ⟨0, 0⟩ = .nop) ∧
  (∀ gain tint : Nat, (∃ r, assemble (.wrcfg gain tint) = some r) ↔
    (gain = 0 ∨ gain = 16) ∧ (tint = 13 ∨ tint = 101 ∨ tint = 402)) ∧
  (∀ (gain tint : Nat) (r : Request), assemble (.wrcfg gain tint) = some r →
    r.op = 1 ∧ r.data.toNat = gain + (if tint = 13 then 0 else if tint = 101 then 1 else 2) ∧
    ∃ integ g, r.instr = .wrcfg integ g ∧ gainValue g = gain ∧
      integ.toNat = (if tint = 13 then 0 else if tint = 101 then 1 else 2)) ∧
  (∀ n : RegName, ∃ r, assemble (.rdreg n) = some r ∧ r.op = 2 ∧ r.instr = .rdreg n ∧
    [RegName.cfg, .lux, .status, .seg, .sch0, .sch1, .chscale, .ratio, .temp][r.data.toNat]? = some n) ∧
  (∀ ch0 ch1 : Nat, ch0 < 65536 → ch1 < 65536 → ∃ r, assemble (.calcChannels ch0 ch1) = some r ∧ r.op = 3 ∧
    r.data.toNat = ch1 * 65536 + ch0 ∧ r.instr = .calcLux (BitVec.ofNat 16 ch0) (BitVec.ofNat 16 ch1)) ∧
  (∀ ch0 ch1 : Nat, 65536 ≤ ch0 ∨ 65536 ≤ ch1 → assemble (.calcChannels ch0 ch1) = none) ∧
  (∀ (t : Package) (e : Nat) (f : RomField), 1 ≤ e → e ≤ 8 → ∃ r idx, assemble (.rdrom t e f) = some r ∧ r.op = 4 ∧
    r.data.toNat = (if f = .k then 0 else if f = .b then 1 else 2) * 16 + (if t = .tFnCl then 0 else 1) * 8 + (e - 1) ∧
    r.instr = .rdrom t idx f ∧ entryNumber idx.toFin = e) ∧
  (∀ (t : Package) (e : Nat) (f : RomField), e = 0 ∨ 9 ≤ e → assemble (.rdrom t e f) = none) ∧
  (∀ imm : Nat, imm < 2 ^ 32 → ∃ d : Word, d.toNat = imm ∧ assemble (.wrcfgImm imm) = some ⟨1, d⟩ ∧
    assemble (.rdregImm imm) = some ⟨2, d⟩ ∧ assemble (.calcImm imm) = some ⟨3, d⟩ ∧ assemble (.rdromImm imm) = some ⟨4, d⟩) ∧
  (∀ imm : Nat, 2 ^ 32 ≤ imm → assemble (.wrcfgImm imm) = none ∧ assemble (.rdregImm imm) = none ∧
    assemble (.calcImm imm) = none ∧ assemble (.rdromImm imm) = none) ∧
  (∀ op imm : Nat, op < 8 → imm < 2 ^ 32 →
    ∃ r, assemble (.req op imm) = some r ∧ r.op.toNat = op ∧ r.data.toNat = imm) ∧
  (∀ op imm : Nat, 8 ≤ op ∨ 2 ^ 32 ≤ imm → assemble (.req op imm) = none) ∧
  (∀ n : Nat, assemble (.setGain n) = none ∧ assemble (.setTiming n) = none)

/-- The data word a host makes from the sensor's bytes gives CALC the two channels `(MSB<<8)|LSB`
(20_memory.md R42, R43). -/
def Obligations.SensorBytesGiveTheChannels : Prop :=
  ∀ ch1Msb ch1Lsb ch0Msb ch0Lsb : BitVec 8, ∃ ch0 ch1,
    decode (requestWord 3 (sensorWord ch1Msb ch1Lsb ch0Msb ch0Lsb)) = .calcLux ch0 ch1 ∧
    ch0.toNat = ch0Msb.toNat * 256 + ch0Lsb.toNat ∧ ch1.toNat = ch1Msb.toNat * 256 + ch1Lsb.toNat

/-! ### The clock edge and the port -/

/-- A step runs the decoded operation: in a block that has been reset (70_reset_and_hazards.md R163), at the edge where
the operation in flight completes, and `rst` is 0, the step is exec of what the slot's word decodes to, on the state with
the slot emptied, the last response ended, and the edge's inputs taken (10_state.md R28, R33; log entries 1, 4, 16). -/
def Obligations.CompletingEdgeRunsDecodedOperation : Prop :=
  ∀ (s : State) (f : InFlight), buildLegal s.build → s.wasReset = true → s.inflight = some f → f.rem = 1 →
    (nextInput s).rst = false →
    step s = exec (decode (requestWord f.op f.data))
      { s with inflight := none, rsp := none, lastRst := false, host := s.host.tail, draws := s.draws + 1 }

/-- The word `withFetchWord` places is decoded and run by the very next step (log entry 1, the model's own). -/
def Obligations.PlacedWordRunsAtNextStep : Prop :=
  ∀ (s : State) (nbits w : Nat) (i : Instr), buildLegal s.build → decodeTableWord nbits w = some i →
    step (s.withFetchWord nbits w) =
      exec i { s with inflight := none, rsp := none, lastRst := false, wasReset := true, draws := s.draws + 1 }

/-- A request offered to a ready block is accepted: the slot samples it, with its latency to go
(30_encoding.md R62, R64, 10_state.md R33). -/
def Obligations.ReadyBlockAcceptsOfferedRequest : Prop :=
  ∀ (s : State) (p : PortIn) (rest : List PortIn), buildLegal s.build → reqReady s = true → s.host = p :: rest →
    p.rst = false → p.reqValid = true →
    ∃ t, step s = .next t ∧ reqReady t = false ∧ t.regs = s.regs ∧ t.build = s.build ∧ t.host = rest ∧ t.rsp = none ∧
      t.inflight = some ⟨p.op, p.data, if p.op = 3 then s.build.calcLatency else 1⟩

/-- In a block that has been reset, a request offered while it is not ready, and the values on `req_op` and `req_data`
while nothing is offered, have no effect (30_encoding.md R62). Before the first reset the port's behaviour is
unspecified (70_reset_and_hazards.md R163). -/
def Obligations.UnacceptedRequestHasNoEffect : Prop :=
  ∀ (s : State) (p : PortIn) (rest : List PortIn) (op : BitVec 3) (data : Word), s.wasReset = true →
    s.host = p :: rest → reqReady s = false ∨ p.reqValid = false →
    step s = step { s with host := ⟨p.rst, false, op, data⟩ :: rest }

/-- From acceptance to the edge before completion the registers keep their values, no response is driven and the
block is not ready, whatever the host offers (10_state.md R28, 30_encoding.md R62 to R64). -/
def Obligations.NothingShowsWhileInFlight : Prop :=
  ∀ (s : State) (r : Request) (ins rest : List PortIn) (k : Nat), buildLegal s.build → reqReady s = true →
    s.host = offer r :: (ins ++ rest) → (∀ p ∈ ins, p.rst = false) → ins.length = latency s.build r.op →
    k < latency s.build r.op →
    ∃ t, runEdges (k + 1) s = .next t ∧ t.regs = s.regs ∧
      (pins t).reqReady = false ∧ (pins t).rspValid = false

/-- An accepted operation is one atomic transition: after its latency the state is exec of the decoded request, and
the block is ready again, whatever the host offers meanwhile (10_state.md R28, R33, 30_encoding.md R62 to R64). -/
def Obligations.AcceptedOperationIsAtomic : Prop :=
  ∀ (s : State) (r : Request) (ins rest : List PortIn), buildLegal s.build → reqReady s = true →
    s.host = offer r :: (ins ++ rest) → (∀ p ∈ ins, p.rst = false) → ins.length = latency s.build r.op →
    ∃ t, runEdges (latency s.build r.op + 1) s = .next t ∧ reqReady t = true ∧
      exec (decode (requestWord r.op r.data))
        { s with rsp := none, host := rest, draws := s.draws + latency s.build r.op + 1 } = .next t

/-- Requests presented one after the other by a patient host are performed in that order, each seeing what the one
before left: the clocked machine refines the sequence of atomic operations; and if the host then offers nothing up to
the next reset, the run is over (20_memory.md R51, 30_encoding.md R62, 70_reset_and_hazards.md R168, R169). -/
def Obligations.RequestSequenceRefinesAtomicOperations : Prop :=
  ∀ (s : State) (rs : List Request) (rest : List PortIn), buildLegal s.build → reqReady s = true →
    s.host = schedule s.build rs ++ rest →
    ∃ t u, operateAll rs s = .next t ∧ runEdges (schedule s.build rs).length s = .next u ∧
      u.regs = t.regs ∧ u.rsp = t.rsp ∧ u.build = s.build ∧ u.host = rest ∧ reqReady u = true ∧
      ((∀ p ∈ rest.takeWhile (fun p => !p.rst), p.reqValid = false) → RunOver s (schedule s.build rs).length u)

/-- A response is driven for exactly one cycle, with its operation's `rsp_err` and `rsp_data`: in a state of the
invariant that shows one, the next edge ends it (30_encoding.md R63). -/
def Obligations.ResponseLastsOneCycle : Prop :=
  ∀ (s : State) (r : Response), BlockInv s → s.rsp = some r →
    (pins s).rspValid = true ∧ (pins s).rspErr = r.err ∧ (pins s).rspData = r.data ∧
    ∃ t, step s = .next t ∧ t.rsp = none ∧ (pins t).rspValid = false

/-- What the outputs show in every cycle: `rsp_valid` with the response of the cycle, if there is one, and, in a block
that has been reset, `req_ready` exactly when nothing is in flight and `rst` was 0 at the last edge
(30_encoding.md R61, R62, R63). -/
def Obligations.PinsShowTheRegisteredPort : Prop :=
  ∀ s : State,
    (∀ r, s.rsp = some r → (pins s).rspValid = true ∧ (pins s).rspErr = r.err ∧ (pins s).rspData = r.data) ∧
    (s.rsp = none → (pins s).rspValid = false) ∧
    (s.wasReset = true → ((pins s).reqReady = true ↔ s.inflight = none ∧ s.lastRst = false))

/-- Every step of a legal build answers a next state, and a build that breaks 20_memory.md R47 or has CALC_LATENCY 0
is refused: the block has no other stop (20_memory.md R47, 60_exceptions.md R142, R146; log entry 8). -/
def Obligations.OnlyAnIllegalBuildStops : Prop :=
  ∀ s : State, (buildLegal s.build → ∃ t, step s = .next t) ∧ (¬ buildLegal s.build → step s = .refused .illegalBuild)

/-- No step changes the ROM, nor any other build parameter (20_memory.md R41, 00_scope.md R4). -/
def Obligations.NoStepChangesTheRom : Prop :=
  ∀ s t : State, step s = .next t → t.build.rom = s.build.rom ∧ t.build = s.build

/-- A run that is finished stays finished up to the next reset: no register changes, no response is driven, and the
block never stops, through any number of edges without reset (70_reset_and_hazards.md R169, 60_exceptions.md R154). -/
def Obligations.FinishedRunStaysFinished : Prop :=
  ∀ (s : State) (n : Nat), buildLegal s.build → RunFinished s → (∀ p ∈ s.host.take n, p.rst = false) →
    ∃ t, runEdges n s = .next t ∧ t.regs = s.regs ∧ RunFinished t ∧ (n ≠ 0 → (pins t).rspValid = false)

/-- A run interrupted by reset ends at that reset, with the state of R160, whatever was in flight and whatever the host
offers then or later; and without a reset a run with an operation in flight is not over (70_reset_and_hazards.md R169,
R161, R160). -/
def Obligations.ResetEndsTheRunItCuts : Prop :=
  (∀ (s : State) (ins : List PortIn) (p : PortIn) (rest : List PortIn), buildLegal s.build → s.host = ins ++ p :: rest →
    (∀ q ∈ ins, q.rst = false) → p.rst = true →
    ∃ t, runEdges (ins.length + 1) s = .next t ∧ RunOver s (ins.length + 1) t ∧
      t = State.afterReset s.build rest (s.draws + (ins.length + 1)) ∧ (pins t).rspValid = false) ∧
  (∀ (s : State) (n : Nat) (t : State), (∀ p ∈ s.host.take n, p.rst = false) → t.inflight ≠ none → ¬ RunOver s n t)

/-! ### Reset -/

/-- At an edge with `rst = 1` every register takes its reset value, from any state and with any operation in flight,
which leaves no trace (70_reset_and_hazards.md R160, R161). -/
def Obligations.ResetEdgeSetsEveryRegister : Prop :=
  ∀ s : State, buildLegal s.build → (nextInput s).rst = true →
    ∃ t, step s = .next t ∧
      readReg t .cfg = 0x00000002 ||| (if s.build.package = .cs then 0x100 else 0) ∧
      readReg t .lux = 0 ∧ readReg t .sch0 = 0 ∧ readReg t .sch1 = 0 ∧ readReg t .chscale = 0 ∧ readReg t .ratio = 0 ∧
      readReg t .temp = 0 ∧ readReg t .seg = 15 ∧ readReg t .status = 0 ∧
      t.inflight = none ∧ (pins t).rspValid = false ∧ t.build = s.build

/-- After an edge with `rst = 1` the block is not ready; the first edge with `rst = 0` accepts nothing and makes it
ready, with the registers as reset left them (70_reset_and_hazards.md R162). -/
def Obligations.ReadyOneEdgeAfterReset : Prop :=
  ∀ s : State, buildLegal s.build → (nextInput s).rst = true →
    ∃ t, step s = .next t ∧ (pins t).reqReady = false ∧
      ((nextInput t).rst = false → ∃ u, step t = .next u ∧ (pins u).reqReady = true ∧ (pins u).rspValid = false ∧
        u.inflight = none ∧ u.regs = t.regs)

/-- Whatever the registers and the port show before the first reset, and however many edges with `rst = 0` come first
and whatever the host offers at them, the first edge with `rst = 1` gives the state right after reset, and the host's
remaining inputs (70_reset_and_hazards.md R160, R163; log entry 7). -/
def Obligations.FirstResetEndsTheUnknownState : Prop :=
  ∀ (b : Build) (ins : List PortIn) (p : PortIn) (rest : List PortIn), buildLegal b → (∀ q ∈ ins, q.rst = false) →
    p.rst = true →
    (∃ t, runEdges ins.length (powerOn b (ins ++ p :: rest)) = .next t ∧ t.wasReset = false ∧ t.build = b) ∧
    runEdges (ins.length + 1) (powerOn b (ins ++ p :: rest)) = .next (State.afterReset b rest (ins.length + 1))

/-- The invariant holds right after reset, for every legal build (70_reset_and_hazards.md R160), and so of
`State.reset`, whose build is the model's choice (log entry 2). -/
def Obligations.ResetStateSatisfiesTheInvariant : Prop :=
  (∀ (b : Build) (host : List PortIn) (n : Nat), buildLegal b → BlockInv (State.afterReset b host n)) ∧ BlockInv State.reset

/-- Every step keeps the invariant: the results of the last CALC agree with each other and with STATUS, SEG and
CHSCALE hold legal values, the slot counts from its latency down, and a response never stands beside an operation in
flight (10_state.md R29 to R33, 41_lux_calc.md R105 to R118). -/
def Obligations.EveryStepKeepsTheInvariant : Prop :=
  ∀ s t : State, BlockInv s → step s = .next t → BlockInv t

/-- ERR and LUXVALID, once set, stay set through every run without reset; and while ERR is set ECODE is not 0
(10_state.md R32, 60_exceptions.md R142). -/
def Obligations.ErrAndLuxvalidStickUntilReset : Prop :=
  ∀ (s t : State) (n : Nat), BlockInv s → (∀ p ∈ s.host.take n, p.rst = false) → runEdges n s = .next t →
    (s.regs.status.err = true → t.regs.status.err = true ∧ t.regs.status.ecode ≠ 0) ∧
    (s.regs.status.luxValid = true → t.regs.status.luxValid = true)

/-! ### All operations -/

/-- Every operation completes from every state, with one response, and changes nothing but the registers that are its
own: CALC writes the results, LUXVALID and CLAMP; WRCFG writes CFG; an error outcome writes ERR and ECODE
(10_state.md R20, R32, R34, 30_encoding.md R63). -/
def Obligations.EachRegisterHasItsOneWriter : Prop :=
  ∀ (i : Instr) (s : State), ∃ t rsp, exec i s = .next t ∧
    t = { s with regs := t.regs, rsp := some rsp } ∧
    ((∀ ch0 ch1, i ≠ .calcLux ch0 ch1) →
      t.regs = { s.regs with cfg := t.regs.cfg, status := t.regs.status } ∧
      t.regs.status.luxValid = s.regs.status.luxValid ∧ t.regs.status.clamp = s.regs.status.clamp) ∧
    ((∀ integ gain, i ≠ .wrcfg integ gain) → t.regs.cfg = s.regs.cfg) ∧
    ((∀ op, i ≠ .badOp op) → (∀ sel, i ≠ .badSel sel) → (∀ tbl idx, i ≠ .badFld tbl idx) →
      rsp.err = false ∧ t.regs.status.err = s.regs.status.err ∧ t.regs.status.ecode = s.regs.status.ecode)

/-- Every operation is idempotent: done again at once it answers the same and leaves the same state; and NOP, RDREG
and RDROM change no register at all (20_memory.md R48). -/
def Obligations.RepeatingAnOperationChangesNothing : Prop :=
  (∀ (i : Instr) (s : State), ∃ t, exec i s = .next t ∧ exec i t = .next t) ∧
  (∀ (i : Instr) (s : State), i = .nop ∨ (∃ r, i = .rdreg r) ∨ (∃ tbl idx f, i = .rdrom tbl idx f) →
    ∃ t, exec i s = .next t ∧ t.regs = s.regs ∧ t.build = s.build)

/-! ### The access operations -/

/-- What each register reads as: CFG is INTEG, GAIN and the package, STATUS is ERR, LUXVALID, CLAMP and ECODE, SEG is its
code, with every other bit 0; LUX, SCH0, SCH1, CHSCALE, RATIO and TEMP each read as their own 32 bits (10_state.md R23, R26,
R27, R29 to R32; 40_access_ops.md R84, 30_encoding.md R68). -/
def Obligations.RegisterWordsShowTheirFields : Prop :=
  ∀ s : State,
    (readReg s .cfg).toNat = s.regs.cfg.integ.toNat + 16 * s.regs.cfg.gain.toNat +
      256 * (if s.build.package = .cs then 1 else 0) ∧
    (readReg s .status).toNat = s.regs.status.err.toNat + 2 * s.regs.status.luxValid.toNat +
      4 * s.regs.status.clamp.toNat + 16 * s.regs.status.ecode.toNat ∧
    (readReg s .seg).toNat = s.regs.seg.toNat ∧
    readReg s .lux = s.regs.lux ∧ readReg s .sch0 = s.regs.sch0 ∧ readReg s .sch1 = s.regs.sch1 ∧
    readReg s .chscale = s.regs.chscale ∧ readReg s .ratio = s.regs.ratio ∧ readReg s .temp = s.regs.temp

/-- NOP, whatever its data, responds (0, 0) one edge after acceptance and changes nothing (40_access_ops.md R80). -/
def Obligations.NopOnlyResponds : Prop :=
  ∀ (data : Word) (s : State), decode (requestWord 0 data) = .nop ∧ latency s.build 0 = 1 ∧
    ∃ t, exec .nop s = .next t ∧ t.rsp = some ⟨false, 0⟩ ∧ t = { s with rsp := t.rsp }

/-- WRCFG, whatever its data, writes INTEG and GAIN, responds the new CFG, and changes nothing else: the ignored bits
and PKG are not written; with GAIN = 0 every CALC before the next WRCFG responds 0 (40_access_ops.md R82). -/
def Obligations.WrcfgWritesAndRespondsCfg : Prop :=
  ∀ (data : Word) (s : State), ∃ integ gain t new,
    decode (requestWord 1 data) = .wrcfg integ gain ∧ exec (.wrcfg integ gain) s = .next t ∧
    integ.toNat = data.toNat % 4 ∧ gain.toNat = data.toNat / 16 % 2 ∧
    new = (data &&& 0x13) ||| (if s.build.package = .cs then 0x100 else 0) ∧
    t.rsp = some ⟨false, new⟩ ∧ readReg t .cfg = new ∧ t.regs.cfg = ⟨integ, gain⟩ ∧
    t = { s with regs := { s.regs with cfg := t.regs.cfg }, rsp := t.rsp } ∧
    (gain = false → ∀ (rs : List Request) (ch0 ch1 : Channel), (∀ r ∈ rs, r.op ≠ 1) →
      ∃ u v, operateAll rs t = .next u ∧ exec (.calcLux ch0 ch1) u = .next v ∧ v.rsp = some ⟨false, 0⟩)

/-- The response of WRCFG is what a later RDREG CFG returns, through any operations but another WRCFG
(40_access_ops.md R83). -/
def Obligations.WrcfgReadsBack : Prop :=
  ∀ (data : Word) (s : State) (rs : List Request), (∀ r ∈ rs, r.op ≠ 1) →
    ∃ t u v, exec (decode (requestWord 1 data)) s = .next t ∧ operateAll rs t = .next u ∧
      exec (.rdreg .cfg) u = .next v ∧ v.rsp = t.rsp ∧ t.rsp ≠ none

/-- RDREG answers the register its selector names, with no effect, and takes the error outcome BadSel for a selector
9 to 15; bits [31:4] are ignored (40_access_ops.md R84). -/
def Obligations.RdregRespondsSelectedRegister : Prop :=
  ∀ (data : Word) (s : State) (sel : Nat), sel = data.toNat % 16 →
    (∀ r : RegName, [RegName.cfg, .lux, .status, .seg, .sch0, .sch1, .chscale, .ratio, .temp][sel]? = some r →
      decode (requestWord 2 data) = .rdreg r ∧
      ∃ t, exec (.rdreg r) s = .next t ∧ t.rsp = some ⟨false, readReg s r⟩ ∧ t = { s with rsp := t.rsp }) ∧
    (9 ≤ sel → ∃ t, exec (decode (requestWord 2 data)) s = .next t ∧ t.rsp = some ⟨true, 0⟩ ∧
      t.regs = { s.regs with status := { s.regs.status with err := true, ecode := 2 } } ∧
      t = { s with regs := t.regs, rsp := t.rsp })

/-- RDROM answers the word of the named table, entry and field, zero-extended, with no effect, and takes the error
outcome BadFld for field code 3; bits [31:6] are ignored (40_access_ops.md R86). -/
def Obligations.RdromRespondsRomWord : Prop :=
  ∀ (data : Word) (s : State) (x : RomEntry) (fld : Nat), fld = data.toNat / 16 % 4 →
    (if data.toNat / 8 % 2 = 0 then s.build.rom.tFnCl else s.build.rom.cs)[data.toNat % 8]? = some x →
    (∀ v : RomWord, [x.k, x.b, x.m][fld]? = some v →
      ∃ tbl idx f t, decode (requestWord 4 data) = .rdrom tbl idx f ∧ exec (.rdrom tbl idx f) s = .next t ∧
        t.rsp = some ⟨false, v.setWidth 32⟩ ∧ t = { s with rsp := t.rsp }) ∧
    (fld = 3 → ∃ t, exec (decode (requestWord 4 data)) s = .next t ∧ t.rsp = some ⟨true, 0⟩ ∧
      t.regs = { s.regs with status := { s.regs.status with err := true, ecode := 3 } } ∧
      t = { s with regs := t.regs, rsp := t.rsp })

/-- RDROM returns the words CALC read: the K, B and M it answers for the entry SEG names are the ones RATIO was
compared with and TEMP was computed from, and the K of every earlier entry is below RATIO (40_access_ops.md R87). -/
def Obligations.RdromReturnsWhatCalcRead : Prop :=
  ∀ (s : State) (ch0 ch1 : Channel), buildLegal s.build →
    ∃ t, exec (.calcLux ch0 ch1) s = .next t ∧ ∀ idx : BitVec 3, idx.toNat < t.regs.seg.toNat →
      ∃ (k b m : Word) (tk tb tm : State),
        exec (.rdrom s.build.package idx .k) t = .next tk ∧ tk.rsp = some ⟨false, k⟩ ∧
        exec (.rdrom s.build.package idx .b) t = .next tb ∧ tb.rsp = some ⟨false, b⟩ ∧
        exec (.rdrom s.build.package idx .m) t = .next tm ∧ tm.rsp = some ⟨false, m⟩ ∧
        (t.regs.seg.toNat = idx.toNat + 1 → t.regs.ratio.toNat ≤ k.toNat ∧
          (t.regs.temp.toNat : Int) = max ((t.regs.sch0.toNat : Int) * b.toNat - t.regs.sch1.toNat * m.toNat) 0) ∧
        (idx.toNat + 1 < t.regs.seg.toNat → k.toNat < t.regs.ratio.toNat)

/-- SETGAIN changes GAIN and keeps INTEG; SETTIMING changes INTEG and keeps GAIN; neither changes another register
(30_encoding.md R73). -/
def Obligations.SettersKeepTheOtherField : Prop :=
  (∀ (g : Bool) (s : State), ∃ t, setGain g s = .next t ∧ t.regs = { s.regs with cfg := ⟨s.regs.cfg.integ, g⟩ } ∧
    t.rsp = some ⟨false, readReg t .cfg⟩) ∧
  (∀ (c : BitVec 2) (s : State), ∃ t, setTiming c s = .next t ∧ t.regs = { s.regs with cfg := ⟨c, s.regs.cfg.gain⟩ } ∧
    t.rsp = some ⟨false, readReg t .cfg⟩)

/-! ### Errors -/

/-- The error outcome: for each reserved encoding STATUS.ERR is set, ECODE is the cause code, the response is (1, 0),
it comes one edge after acceptance, and nothing else changes (60_exceptions.md R140). -/
def Obligations.ErrorOutcomeRecordsItsCause : Prop :=
  ∀ (i : Instr) (s : State) (code : BitVec 2), i.wellFormed = true →
    ((∃ op, i = .badOp op) ∧ code = 1 ∨ (∃ sel, i = .badSel sel) ∧ code = 2 ∨ (∃ tbl idx, i = .badFld tbl idx) ∧ code = 3) →
    latency s.build (opOf i) = 1 ∧
    ∃ t, exec i s = .next t ∧ t.rsp = some ⟨true, 0⟩ ∧ t.regs.status.err = true ∧ t.regs.status.ecode = code ∧
      t = { s with regs := { s.regs with status := { s.regs.status with err := true, ecode := code } }, rsp := t.rsp }

/-- The error outcome of 60_exceptions.md R140, by the request word: the listed words and no others take it, each with
its one cause; it sets ERR and ECODE, responds (1, 0) one edge after acceptance and changes nothing else; any other word
leaves ERR and ECODE alone (30_encoding.md R70, R141). -/
def Obligations.ExactlyTheListedWordsTakeTheErrorOutcome : Prop :=
  ∀ (op : BitVec 3) (data : Word) (s : State), ∃ t rsp,
    exec (decode (requestWord op data)) s = .next t ∧ t.rsp = some rsp ∧
    (rsp.err = true ↔ 5 ≤ op.toNat ∨ (op = 2 ∧ 9 ≤ data.toNat % 16) ∨ (op = 4 ∧ data.toNat / 16 % 4 = 3)) ∧
    (rsp.err = true → rsp.data = 0 ∧ latency s.build op = 1 ∧
      t = { s with
        regs := { s.regs with status :=
          { s.regs.status with err := true, ecode := if op = 2 then 2 else if op = 4 then 3 else 1 } },
        rsp := t.rsp }) ∧
    (rsp.err = false → t.regs.status.err = s.regs.status.err ∧ t.regs.status.ecode = s.regs.status.ecode)

/-! ### CALC -/

/-- CALC, whole: from the data word, CFG, PACKAGE and the ROM, by exact integers, each value it writes, the flags, the
response, and everything else unchanged (41_lux_calc.md R104 to R111, R113 to R116). The constants are the source's,
unaudited (00_scope.md R3). -/
def Obligations.CalcComputesAndCommitsLux : Prop :=
  ∀ (data : Word) (s : State), buildLegal s.build →
    ∃ (ch0 ch1 : Channel) (t : State) (cs sc0 sc1 r0 ratio seg b m : Nat) (temp tc : Int) (table : Vector RomEntry 8),
      decode (requestWord 3 data) = .calcLux ch0 ch1 ∧ exec (.calcLux ch0 ch1) s = .next t ∧
      ch0.toNat = data.toNat % 2 ^ 16 ∧ ch1.toNat = data.toNat / 2 ^ 16 ∧
      cs = (if s.regs.cfg.integ = 0 then 0x7517 else if s.regs.cfg.integ = 1 then 0x0FE7 else 16384) *
        (if s.regs.cfg.gain then 16 else 0) ∧
      sc0 = ch0.toNat * cs / 16384 ∧ sc1 = ch1.toNat * cs / 16384 ∧
      r0 = (if sc0 = 0 then 0 else sc1 * 1024 / sc0) ∧ ratio = (r0 + 1) / 2 ∧
      table = (if s.build.package = .cs then s.build.rom.cs else s.build.rom.tFnCl) ∧
      ((∃ e : Fin 8, seg = e + 1 ∧ ratio ≤ (table.get e).k.toNat ∧ (∀ d < e, (table.get d).k.toNat < ratio) ∧
          b = (table.get e).b.toNat ∧ m = (table.get e).m.toNat) ∨
        ((∀ d, (table.get d).k.toNat < ratio) ∧ seg = 0 ∧ b = 0 ∧ m = 0)) ∧
      temp = (sc0 : Int) * b - sc1 * m ∧ tc = max temp 0 ∧
      t.regs.chscale.toNat = cs ∧ t.regs.sch0.toNat = sc0 ∧ t.regs.sch1.toNat = sc1 ∧ t.regs.ratio.toNat = ratio ∧
      t.regs.seg.toNat = seg ∧ (t.regs.temp.toNat : Int) = tc ∧ (t.regs.lux.toNat : Int) = (tc + 8192) / 16384 ∧
      t.regs.status = { s.regs.status with luxValid := true, clamp := decide (temp < 0) } ∧
      t.regs.cfg = s.regs.cfg ∧ t.rsp = some ⟨false, t.regs.lux⟩ ∧ t = { s with regs := t.regs, rsp := t.rsp }

/-- CALC takes the error outcome on no input and no configuration (41_lux_calc.md R117). -/
def Obligations.CalcNeverErrs : Prop :=
  ∀ (data : Word) (s : State), ∃ ch0 ch1 t lux, decode (requestWord 3 data) = .calcLux ch0 ch1 ∧
    exec (.calcLux ch0 ch1) s = .next t ∧ t.rsp = some ⟨false, lux⟩ ∧ t.regs.status.err = s.regs.status.err

/-- The ranges of every value CALC computes, as exact integers, for every input and every legal ROM: no step
overflows the widths given (41_lux_calc.md R118). -/
def Obligations.CalcValuesFitTheirWidths : Prop :=
  ∀ (b : Build) (c : Cfg) (ch0 ch1 : Channel), buildLegal b →
    let v := luxCalc b c ch0 ch1
    (v.cs = 0 ∨ v.cs = 65136 ∨ v.cs = 262144 ∨ v.cs = 479600) ∧
    ch0.toNat * v.cs ≤ 31430586000 ∧ ch1.toNat * v.cs ≤ 31430586000 ∧
    v.sc0 ≤ 1918370 ∧ v.sc1 ≤ 1918370 ∧ rawRatio v.sc0 v.sc1 ≤ 1964410880 ∧ v.ratio ≤ 982205440 ∧
    -3926903390 ≤ tempOf v.sc0 v.sc1 (selectEntry b.rom b.package v.ratio) ∧
    v.tc ≤ 3926903390 ∧ v.lux ≤ 239679

/-- The tighter ranges with the default ROM, and the largest lux at ch0 = 65535, which CS at 13 ms reaches with
ch1 = 0 (41_lux_calc.md R118). It rests on the default ROM, 45 words of which are PRESUMED (log entry 3). -/
def Obligations.DefaultRomBoundsLux : Prop :=
  (∀ (p : Package) (l : Nat) (c : Cfg) (ch0 ch1 : Channel),
    let v := luxCalc ⟨p, defaultRom, l⟩ c ch0 ch1
    tempOf v.sc0 v.sc1 (selectEntry defaultRom p v.ratio) ≤ 1231593540 ∧
    -1960574140 ≤ tempOf v.sc0 v.sc1 (selectEntry defaultRom p v.ratio) ∧
    v.tc ≤ 1231593540 ∧ v.lux ≤ 75171 ∧ (ch0 = 65535 → v.lux ≤ 60417)) ∧
  ∀ l : Nat, (luxCalc ⟨.cs, defaultRom, l⟩ ⟨0, true⟩ 65535 0).lux = 60417

/-- For every legal ROM SEG is never 8, and what entry 8 holds as B and M never enters a CALC
(41_lux_calc.md R112). -/
def Obligations.EntryEightIsNeverSelected : Prop :=
  ∀ (s : State) (rom : BpRom) (ch0 ch1 : Channel), buildLegal s.build → romLegal rom →
    (∀ t e f, (e = 7 ∧ f ≠ .k) ∨ romRead rom t e f = romRead s.build.rom t e f) →
    ∃ t u, exec (.calcLux ch0 ch1) s = .next t ∧
      exec (.calcLux ch0 ch1) { s with build := { s.build with rom := rom } } = .next u ∧
      t.regs.seg ≠ 8 ∧ u.regs = t.regs ∧ u.rsp = t.rsp

/-- The thresholds are inclusive: a RATIO equal to the K of an entry 1 to 7 selects that entry if no earlier one has
the same K, and a RATIO of K + 1 selects a later entry or none (41_lux_calc.md R121). -/
def Obligations.ThresholdsAreInclusive : Prop :=
  ∀ (s : State) (ch0 ch1 : Channel) (e : Fin 8) (k : Nat), buildLegal s.build → e.val < 7 →
    k = (romRead s.build.rom s.build.package e .k).toNat →
    ∃ t, exec (.calcLux ch0 ch1) s = .next t ∧
      (t.regs.ratio.toNat = k → (∀ d < e, (romRead s.build.rom s.build.package d .k).toNat ≠ k) →
        t.regs.seg.toNat = e.val + 1) ∧
      (t.regs.ratio.toNat = k + 1 → t.regs.seg.toNat = 0 ∨ e.val + 1 < t.regs.seg.toNat)

/-- With GAIN = 0 CALC gives lux 0 for every input, leaves the registers at the values the rule lists, and after
reset GAIN stays 0 until a WRCFG (41_lux_calc.md R119). -/
def Obligations.GainZeroGivesLuxZero : Prop :=
  (∀ (s : State) (ch0 ch1 : Channel), s.regs.cfg.gain = false →
    ∃ t, exec (.calcLux ch0 ch1) s = .next t ∧ t.rsp = some ⟨false, 0⟩ ∧
      t.regs.chscale = 0 ∧ t.regs.sch0 = 0 ∧ t.regs.sch1 = 0 ∧ t.regs.ratio = 0 ∧ t.regs.seg = 1 ∧ t.regs.temp = 0 ∧
      t.regs.lux = 0 ∧ t.regs.status.clamp = false) ∧
  (∀ (b : Build) (host : List PortIn) (n : Nat) (rs : List Request), (∀ r ∈ rs, r.op ≠ 1) →
    ∃ t, operateAll rs (State.afterReset b host n) = .next t ∧ t.regs.cfg.gain = false)

/-- A scaled channel 0 of 0 selects entry 1 and gives lux 0, with CLAMP exactly when SCH1 and M1 are not 0; and with
GAIN = 1 it is 0 exactly when ch0 is (41_lux_calc.md R120). -/
def Obligations.ScaledZeroSelectsEntryOne : Prop :=
  ∀ (s : State) (ch0 ch1 : Channel), ∃ t, exec (.calcLux ch0 ch1) s = .next t ∧
    (t.regs.sch0 = 0 → t.regs.ratio = 0 ∧ t.regs.seg = 1 ∧ t.regs.temp = 0 ∧ t.regs.lux = 0 ∧
      (t.regs.status.clamp = true ↔
        t.regs.sch1 ≠ 0 ∧ romRead s.build.rom s.build.package 0 .m ≠ 0)) ∧
    (s.regs.cfg.gain = true → (t.regs.sch0 = 0 ↔ ch0 = 0))

/-- CALC's response and every value it writes depend on its channels, CFG, PACKAGE and the ROM alone: not on the
history, the latency or any earlier CALC (41_lux_calc.md R122, R101). -/
def Obligations.CalcDependsOnlyOnItsInputs : Prop :=
  ∀ (s s' : State) (ch0 ch1 : Channel), s.regs.cfg = s'.regs.cfg → s.build.package = s'.build.package →
    s.build.rom = s'.build.rom →
    ∃ t t', exec (.calcLux ch0 ch1) s = .next t ∧ exec (.calcLux ch0 ch1) s' = .next t' ∧ t.rsp = t'.rsp ∧
      t'.regs = { t.regs with status := t'.regs.status } ∧
      t.regs.status.luxValid = t'.regs.status.luxValid ∧ t.regs.status.clamp = t'.regs.status.clamp

/-- CALC reads the table of PACKAGE and not the other: a ROM that differs in the other table alone gives the same
result (41_lux_calc.md R109). -/
def Obligations.CalcReadsOnlyThePackagesTable : Prop :=
  ∀ (s : State) (rom : BpRom) (ch0 ch1 : Channel),
    (∀ e f, romRead rom s.build.package e f = romRead s.build.rom s.build.package e f) →
    ∃ t u, exec (.calcLux ch0 ch1) s = .next t ∧
      exec (.calcLux ch0 ch1) { s with build := { s.build with rom := rom } } = .next u ∧
      u.regs = t.regs ∧ u.rsp = t.rsp

/-- INTEG = 3 computes as 402 ms does (10_state.md R24). The code is legal by the spec's decision D5 alone
(log entry 10). -/
def Obligations.IntegThreeComputesAs402ms : Prop :=
  ∀ (s s' : State) (ch0 ch1 : Channel), s.regs.cfg.integ = 3 →
    s' = { s with regs := { s.regs with cfg := ⟨2, s.regs.cfg.gain⟩ } } →
    ∃ t t', exec (.calcLux ch0 ch1) s = .next t ∧ exec (.calcLux ch0 ch1) s' = .next t' ∧ t.rsp = t'.rsp ∧
      t.regs = { t'.regs with cfg := s.regs.cfg }
end

