-- ==== Sys2Proof/Laws/Decode.lean ====
section
/-! SUPPORT. What the fields of a request word are, once, for the proofs about decoding. -/

namespace Sys2Proof

/-- The opcode field of a request word is its opcode (30_encoding.md R65). -/
@[simp] theorem opField_requestWord (op : BitVec 3) (d : Word) : opField (requestWord op d) = op := by
  unfold opField requestWord
  exact BitVec.extractLsb'_append_eq_left

/-- The data field of a request word is its data word (30_encoding.md R65). -/
@[simp] theorem dataField_requestWord (op : BitVec 3) (d : Word) : dataField (requestWord op d) = d := by
  unfold dataField requestWord
  exact BitVec.extractLsb'_append_eq_right

/-- Every request word is its two fields put together (30_encoding.md R65). -/
theorem requestWord_fields (w : ReqWord) : requestWord (opField w) (dataField w) = w := by
  apply BitVec.eq_of_getLsbD_eq
  intro i hi
  simp only [requestWord, opField, dataField, BitVec.getLsbD_append, BitVec.getLsbD_extractLsb']
  split
  · simp_all
  · simp_all; omega

/-- A request decodes by its opcode and data. -/
@[simp] theorem decode_requestWord (op : BitVec 3) (d : Word) : decode (requestWord op d) = decodeRequest op d := by
  simp [decode]

/-- The selector map inverts the register names (30_encoding.md R68). -/
@[simp] theorem regOfSel_selOfReg (r : RegName) : regOfSel (selOfReg r) = some r := by cases r <;> rfl

/-- The field codes invert the field names (30_encoding.md R69). -/
@[simp] theorem fieldOfCode_codeOfField (f : RomField) : fieldOfCode (codeOfField f) = some f := by cases f <;> rfl

/-- The table bit inverts the table names (30_encoding.md R69). -/
@[simp] theorem tableOfBit_bitOfTable (t : Package) : tableOfBit (bitOfTable t) = t := by cases t <;> rfl

/-- Masking a request word by its opcode bits leaves the opcode alone. -/
theorem requestWord_opcode_mask (op : BitVec 3) (d : Word) :
    requestWord op d &&& (0x700000000 : ReqWord) = requestWord op 0 := by
  have h7 : op &&& 7#3 = op := by revert op; decide
  calc op ++ d &&& (7#3 ++ 0#32) = (op &&& 7#3) ++ (d &&& 0#32) := BitVec.and_append
    _ = op ++ 0#32 := by rw [h7, BitVec.and_zero]

/-- A slice of a word as a number: a quotient and a remainder (00_scope.md R6). -/
theorem slice_toNat {w : Nat} (x : BitVec w) (lo len : Nat) : (x.extractLsb' lo len).toNat = x.toNat / 2 ^ lo % 2 ^ len := by
  rw [BitVec.extractLsb'_toNat, Nat.shiftRight_eq_div_pow]

/-- A bit of a word as a number (00_scope.md R6). -/
theorem bit_toNat {w : Nat} (x : BitVec w) (i : Nat) : (x.getLsbD i).toNat = x.toNat / 2 ^ i % 2 := by
  rw [BitVec.getLsbD, Nat.toNat_testBit]

/-- A number below 2^35 decodes as the word it is. -/
theorem decodeNat_of_lt {n : Nat} (h : n < 2 ^ 35) : decodeNat n = .ok (decode (BitVec.ofNat 35 n)) := if_pos h

end Sys2Proof
end

