-- ==== Sys2Proof/Laws/State.lean ====
section
/-! SUPPORT. One lemma per field per update of the state, each true by rfl, so that no proof unfolds an update. -/

namespace Sys2Proof.Machine

variable (s : State)

@[simp] theorem respond_build (err : Bool) (d : Word) : (respond err d s).build = s.build := rfl
@[simp] theorem respond_regs (err : Bool) (d : Word) : (respond err d s).regs = s.regs := rfl
@[simp] theorem respond_inflight (err : Bool) (d : Word) : (respond err d s).inflight = s.inflight := rfl
@[simp] theorem respond_rsp (err : Bool) (d : Word) : (respond err d s).rsp = some ⟨err, d⟩ := rfl
@[simp] theorem respond_lastRst (err : Bool) (d : Word) : (respond err d s).lastRst = s.lastRst := rfl
@[simp] theorem respond_wasReset (err : Bool) (d : Word) : (respond err d s).wasReset = s.wasReset := rfl
@[simp] theorem respond_host (err : Bool) (d : Word) : (respond err d s).host = s.host := rfl
@[simp] theorem respond_draws (err : Bool) (d : Word) : (respond err d s).draws = s.draws := rfl

@[simp] theorem raiseErr_build (r : ErrReason) : (raiseErr r s).build = s.build := rfl
@[simp] theorem raiseErr_regs (r : ErrReason) : (raiseErr r s).regs = { s.regs with status := statusAfterError r s.regs.status } := rfl
@[simp] theorem raiseErr_inflight (r : ErrReason) : (raiseErr r s).inflight = s.inflight := rfl
@[simp] theorem raiseErr_rsp (r : ErrReason) : (raiseErr r s).rsp = some ⟨true, 0⟩ := rfl
@[simp] theorem raiseErr_lastRst (r : ErrReason) : (raiseErr r s).lastRst = s.lastRst := rfl
@[simp] theorem raiseErr_wasReset (r : ErrReason) : (raiseErr r s).wasReset = s.wasReset := rfl
@[simp] theorem raiseErr_host (r : ErrReason) : (raiseErr r s).host = s.host := rfl
@[simp] theorem raiseErr_draws (r : ErrReason) : (raiseErr r s).draws = s.draws := rfl

@[simp] theorem writeCfg_build (integ : BitVec 2) (gain : Bool) : (writeCfg integ gain s).build = s.build := rfl
@[simp] theorem writeCfg_regs (integ : BitVec 2) (gain : Bool) : (writeCfg integ gain s).regs = { s.regs with cfg := ⟨integ, gain⟩ } := rfl
@[simp] theorem writeCfg_inflight (integ : BitVec 2) (gain : Bool) : (writeCfg integ gain s).inflight = s.inflight := rfl
@[simp] theorem writeCfg_rsp (integ : BitVec 2) (gain : Bool) : (writeCfg integ gain s).rsp = s.rsp := rfl
@[simp] theorem writeCfg_lastRst (integ : BitVec 2) (gain : Bool) : (writeCfg integ gain s).lastRst = s.lastRst := rfl
@[simp] theorem writeCfg_wasReset (integ : BitVec 2) (gain : Bool) : (writeCfg integ gain s).wasReset = s.wasReset := rfl
@[simp] theorem writeCfg_host (integ : BitVec 2) (gain : Bool) : (writeCfg integ gain s).host = s.host := rfl
@[simp] theorem writeCfg_draws (integ : BitVec 2) (gain : Bool) : (writeCfg integ gain s).draws = s.draws := rfl

@[simp] theorem tick_build : (tick s).build = s.build := rfl
@[simp] theorem tick_regs : (tick s).regs = s.regs := rfl
@[simp] theorem tick_inflight : (tick s).inflight = s.inflight := rfl
@[simp] theorem tick_rsp : (tick s).rsp = none := rfl
@[simp] theorem tick_lastRst : (tick s).lastRst = false := rfl
@[simp] theorem tick_wasReset : (tick s).wasReset = s.wasReset := rfl
@[simp] theorem tick_host : (tick s).host = s.host := rfl
@[simp] theorem tick_draws : (tick s).draws = s.draws + 1 := rfl

@[simp] theorem loadSlot_build (op : BitVec 3) (d : Word) (n : Nat) : (loadSlot op d n s).build = s.build := rfl
@[simp] theorem loadSlot_regs (op : BitVec 3) (d : Word) (n : Nat) : (loadSlot op d n s).regs = s.regs := rfl
@[simp] theorem loadSlot_inflight (op : BitVec 3) (d : Word) (n : Nat) : (loadSlot op d n s).inflight = some ⟨op, d, n⟩ := rfl
@[simp] theorem loadSlot_rsp (op : BitVec 3) (d : Word) (n : Nat) : (loadSlot op d n s).rsp = s.rsp := rfl
@[simp] theorem loadSlot_lastRst (op : BitVec 3) (d : Word) (n : Nat) : (loadSlot op d n s).lastRst = s.lastRst := rfl
@[simp] theorem loadSlot_wasReset (op : BitVec 3) (d : Word) (n : Nat) : (loadSlot op d n s).wasReset = s.wasReset := rfl
@[simp] theorem loadSlot_host (op : BitVec 3) (d : Word) (n : Nat) : (loadSlot op d n s).host = s.host := rfl
@[simp] theorem loadSlot_draws (op : BitVec 3) (d : Word) (n : Nat) : (loadSlot op d n s).draws = s.draws := rfl

@[simp] theorem freeSlot_build : (freeSlot s).build = s.build := rfl
@[simp] theorem freeSlot_regs : (freeSlot s).regs = s.regs := rfl
@[simp] theorem freeSlot_inflight : (freeSlot s).inflight = none := rfl
@[simp] theorem freeSlot_rsp : (freeSlot s).rsp = s.rsp := rfl
@[simp] theorem freeSlot_lastRst : (freeSlot s).lastRst = s.lastRst := rfl
@[simp] theorem freeSlot_wasReset : (freeSlot s).wasReset = s.wasReset := rfl
@[simp] theorem freeSlot_host : (freeSlot s).host = s.host := rfl
@[simp] theorem freeSlot_draws : (freeSlot s).draws = s.draws := rfl

@[simp] theorem takeInput_build : (takeInput s).build = s.build := rfl
@[simp] theorem takeInput_regs : (takeInput s).regs = s.regs := rfl
@[simp] theorem takeInput_inflight : (takeInput s).inflight = s.inflight := rfl
@[simp] theorem takeInput_rsp : (takeInput s).rsp = s.rsp := rfl
@[simp] theorem takeInput_lastRst : (takeInput s).lastRst = s.lastRst := rfl
@[simp] theorem takeInput_wasReset : (takeInput s).wasReset = s.wasReset := rfl
@[simp] theorem takeInput_host : (takeInput s).host = s.host.tail := rfl
@[simp] theorem takeInput_draws : (takeInput s).draws = s.draws := rfl

@[simp] theorem resetEdge_build : (resetEdge s).build = s.build := rfl
@[simp] theorem resetEdge_regs : (resetEdge s).regs = resetRegs := rfl
@[simp] theorem resetEdge_inflight : (resetEdge s).inflight = none := rfl
@[simp] theorem resetEdge_rsp : (resetEdge s).rsp = none := rfl
@[simp] theorem resetEdge_lastRst : (resetEdge s).lastRst = true := rfl
@[simp] theorem resetEdge_wasReset : (resetEdge s).wasReset = true := rfl
@[simp] theorem resetEdge_host : (resetEdge s).host = s.host := rfl
@[simp] theorem resetEdge_draws : (resetEdge s).draws = s.draws + 1 := rfl

@[simp] theorem unknownEdge_build : (unknownEdge s).build = s.build := rfl
@[simp] theorem unknownEdge_regs : (unknownEdge s).regs = powerOnRegs (s.draws + 1) := rfl
@[simp] theorem unknownEdge_wasReset : (unknownEdge s).wasReset = false := rfl
@[simp] theorem unknownEdge_host : (unknownEdge s).host = s.host := rfl
@[simp] theorem unknownEdge_draws : (unknownEdge s).draws = s.draws + 1 := rfl

@[simp] theorem commitCalc_cfg (v : LuxCalc) : (commitCalc v s).regs.cfg = s.regs.cfg := rfl
@[simp] theorem commitCalc_lux (v : LuxCalc) : (commitCalc v s).regs.lux = BitVec.ofNat 32 v.lux := rfl
@[simp] theorem commitCalc_sch0 (v : LuxCalc) : (commitCalc v s).regs.sch0 = BitVec.ofNat 32 v.sc0 := rfl
@[simp] theorem commitCalc_sch1 (v : LuxCalc) : (commitCalc v s).regs.sch1 = BitVec.ofNat 32 v.sc1 := rfl
@[simp] theorem commitCalc_chscale (v : LuxCalc) : (commitCalc v s).regs.chscale = BitVec.ofNat 32 v.cs := rfl
@[simp] theorem commitCalc_ratio (v : LuxCalc) : (commitCalc v s).regs.ratio = BitVec.ofNat 32 v.ratio := rfl
@[simp] theorem commitCalc_temp (v : LuxCalc) : (commitCalc v s).regs.temp = BitVec.ofNat 32 v.tc := rfl
@[simp] theorem commitCalc_seg (v : LuxCalc) : (commitCalc v s).regs.seg = BitVec.ofNat 4 v.seg := rfl
@[simp] theorem commitCalc_status (v : LuxCalc) : (commitCalc v s).regs.status = statusAfterCalc v.clamp s.regs.status := rfl
@[simp] theorem commitCalc_build (v : LuxCalc) : (commitCalc v s).build = s.build := rfl
@[simp] theorem commitCalc_inflight (v : LuxCalc) : (commitCalc v s).inflight = s.inflight := rfl
@[simp] theorem commitCalc_rsp (v : LuxCalc) : (commitCalc v s).rsp = s.rsp := rfl
@[simp] theorem commitCalc_lastRst (v : LuxCalc) : (commitCalc v s).lastRst = s.lastRst := rfl
@[simp] theorem commitCalc_wasReset (v : LuxCalc) : (commitCalc v s).wasReset = s.wasReset := rfl
@[simp] theorem commitCalc_host (v : LuxCalc) : (commitCalc v s).host = s.host := rfl
@[simp] theorem commitCalc_draws (v : LuxCalc) : (commitCalc v s).draws = s.draws := rfl

@[simp] theorem statusAfterError_err (r : ErrReason) (st : Status) : (statusAfterError r st).err = true := rfl
@[simp] theorem statusAfterError_ecode (r : ErrReason) (st : Status) : (statusAfterError r st).ecode = errCode r := rfl
@[simp] theorem statusAfterError_luxValid (r : ErrReason) (st : Status) : (statusAfterError r st).luxValid = st.luxValid := rfl
@[simp] theorem statusAfterError_clamp (r : ErrReason) (st : Status) : (statusAfterError r st).clamp = st.clamp := rfl
@[simp] theorem statusAfterCalc_err (c : Bool) (st : Status) : (statusAfterCalc c st).err = st.err := rfl
@[simp] theorem statusAfterCalc_ecode (c : Bool) (st : Status) : (statusAfterCalc c st).ecode = st.ecode := rfl
@[simp] theorem statusAfterCalc_luxValid (c : Bool) (st : Status) : (statusAfterCalc c st).luxValid = true := rfl
@[simp] theorem statusAfterCalc_clamp (c : Bool) (st : Status) : (statusAfterCalc c st).clamp = c := rfl

/-- ECODE 0 is no cause code (60_exceptions.md R140). -/
theorem errCode_ne_zero (r : ErrReason) : errCode r ≠ 0 := by cases r <;> decide

end Sys2Proof.Machine
end

