-- ==== Sys2Proof/Laws/Ops.lean ====
section
/-! SUPPORT. What each shared operation can do, said once: the answer of every arm of exec, the scan of the
breakpoint table, and the cases of one clock edge. No operation writes memory (20_memory.md R41), so the ROM's form
needs no lemma beyond `build` standing unchanged in every update (Laws/State.lean). -/

namespace Sys2Proof.Machine

/-! The arms of exec, each answering a next state. -/

@[simp] theorem exec_nop (s : State) : exec .nop s = .next (respond false 0 s) := rfl

@[simp] theorem exec_wrcfg (integ : BitVec 2) (gain : Bool) (s : State) :
    exec (.wrcfg integ gain) s =
      .next (respond false (cfgWord s.build.package ⟨integ, gain⟩) (writeCfg integ gain s)) := rfl

@[simp] theorem exec_rdreg (r : RegName) (s : State) : exec (.rdreg r) s = .next (respond false (readReg s r) s) := rfl

@[simp] theorem exec_calcLux (ch0 ch1 : Channel) (s : State) :
    exec (.calcLux ch0 ch1) s =
      .next (respond false (BitVec.ofNat 32 (luxCalc s.build s.regs.cfg ch0 ch1).lux)
        (commitCalc (luxCalc s.build s.regs.cfg ch0 ch1) s)) := rfl

@[simp] theorem exec_rdrom (t : Package) (idx : BitVec 3) (f : RomField) (s : State) :
    exec (.rdrom t idx f) s = .next (respond false ((romRead s.build.rom t idx.toFin f).setWidth 32) s) := rfl

@[simp] theorem exec_badOp (op : BitVec 3) (s : State) : exec (.badOp op) s = .next (raiseErr .badOp s) := rfl

@[simp] theorem exec_badSel (sel : BitVec 4) (s : State) : exec (.badSel sel) s = .next (raiseErr .badSel s) := rfl

@[simp] theorem exec_badFld (t : Package) (idx : BitVec 3) (s : State) :
    exec (.badFld t idx) s = .next (raiseErr .badFld s) := rfl

/-! The scan of the table (41_lux_calc.md R110, R111). -/

/-- A scan finds the first entry of its list with `K ≥ ratio`, or nothing. -/
theorem scanEntries_cases (rom : BpRom) (t : Package) (ratio : Nat) (es : List (Fin 8)) :
    (∃ pre e post, es = pre ++ e :: post ∧ ratio ≤ (romRead rom t e .k).toNat ∧
      (∀ d ∈ pre, (romRead rom t d .k).toNat < ratio) ∧
      scanEntries rom t ratio es =
        ⟨entryNumber e, (romRead rom t e .b).toNat, (romRead rom t e .m).toNat⟩) ∨
    ((∀ d ∈ es, (romRead rom t d .k).toNat < ratio) ∧ scanEntries rom t ratio es = ⟨0, 0, 0⟩) := by
  induction es with
  | nil => exact .inr ⟨by simp, rfl⟩
  | cons e es ih =>
    by_cases h : ratio ≤ (romRead rom t e .k).toNat
    · exact .inl ⟨[], e, es, rfl, h, by simp, by simp [scanEntries, h]⟩
    · obtain ⟨pre, d, post, rfl, hd, hpre, heq⟩ | ⟨hall, heq⟩ := ih
      · refine .inl ⟨e :: pre, d, post, rfl, hd, ?_, by simpa [scanEntries, h] using heq⟩
        simpa using ⟨by omega, hpre⟩
      · exact .inr ⟨by simpa using ⟨by omega, hall⟩, by simpa [scanEntries, h] using heq⟩

theorem scanOrder_sorted : scanOrder.Pairwise (· < ·) := by decide

theorem mem_scanOrder (e : Fin 8) : e ∈ scanOrder := by revert e; decide

/-- Segment selection: the first of the eight entries with `K ≥ ratio`, or none and coefficients 0. -/
theorem selectEntry_cases (rom : BpRom) (t : Package) (ratio : Nat) :
    (∃ e : Fin 8, ratio ≤ (romRead rom t e .k).toNat ∧ (∀ d < e, (romRead rom t d .k).toNat < ratio) ∧
      selectEntry rom t ratio = ⟨entryNumber e, (romRead rom t e .b).toNat, (romRead rom t e .m).toNat⟩) ∨
    ((∀ d, (romRead rom t d .k).toNat < ratio) ∧ selectEntry rom t ratio = ⟨0, 0, 0⟩) := by
  obtain ⟨pre, e, post, h, hk, hpre, heq⟩ | ⟨hall, heq⟩ := scanEntries_cases rom t ratio scanOrder
  · refine .inl ⟨e, hk, fun d hd => hpre d ?_, heq⟩
    have hs := scanOrder_sorted
    have hm := mem_scanOrder d
    rw [h] at hs hm
    obtain ⟨-, hcons, -⟩ := List.pairwise_append.1 hs
    rcases List.mem_append.1 hm with hin | hin
    · exact hin
    · rcases List.mem_cons.1 hin with rfl | hpost
      · exact absurd hd (lt_irrefl _)
      · exact absurd hd (lt_asymm ((List.pairwise_cons.1 hcons).1 d hpost))
  · exact .inr ⟨fun d => hall d (mem_scanOrder d), heq⟩

/-! What a legal ROM gives CALC (20_memory.md R47). -/

/-- Both tables of a legal ROM meet the constraints on a table. -/
theorem tableLegal_of_romLegal {rom : BpRom} (h : romLegal rom) (t : Package) : tableLegal rom t := by
  cases t
  · exact h.1
  · exact h.2.1

/-- K does not fall from an entry to a later one. -/
theorem romRead_k_mono {rom : BpRom} (h : romLegal rom) (t : Package) {d e : Fin 8} (hde : d ≤ e) :
    (romRead rom t d .k).toNat ≤ (romRead rom t e .k).toNat :=
  Fin.monotone_iff_le_succ (f := fun x : Fin 8 => (romRead rom t x .k).toNat) |>.2 (tableLegal_of_romLegal h t).1 hde

/-- The selected coefficients are at most 0x07FF and the entry number at most 8. -/
theorem selectEntry_le {rom : BpRom} (h : romLegal rom) (t : Package) (ratio : Nat) :
    (selectEntry rom t ratio).seg ≤ 8 ∧ (selectEntry rom t ratio).b ≤ 0x07FF ∧ (selectEntry rom t ratio).m ≤ 0x07FF := by
  obtain ⟨e, -, -, heq⟩ | ⟨-, heq⟩ := selectEntry_cases rom t ratio
  · have hbm := (tableLegal_of_romLegal h t).2.2 e
    rw [heq]
    exact ⟨e.isLt, hbm.1, hbm.2⟩
  · simp [heq]

/-! The ranges the arithmetic stays in (41_lux_calc.md R105, R106). -/

/-- chScale is one of four values. -/
theorem chScale_cases (c : Cfg) : chScale c = 0 ∨ chScale c = 65136 ∨ chScale c = 262144 ∨ chScale c = 479600 := by
  unfold chScale chScaleBase gainValue
  cases c.gain
  · simp
  · by_cases h0 : c.integ = 0
    · simp [h0]
    · by_cases h1 : c.integ = 1 <;> simp_all

/-- A scaled channel is at most 1,918,370. -/
theorem scaled_le (ch : Channel) (c : Cfg) : scaled ch (chScale c) ≤ 1918370 := by
  have hc : chScale c ≤ 479600 := by rcases chScale_cases c with h | h | h | h <;> omega
  have hm : ch.toNat * chScale c ≤ 65535 * 479600 := Nat.mul_le_mul (Nat.le_of_lt_succ ch.isLt) hc
  unfold scaled
  rw [Nat.shiftRight_eq_div_pow]
  omega

/-! One clock edge (60_exceptions.md R145). -/

/-- The ways an edge answers: reset, an edge before the first reset, a wait, a completion, an acceptance, or nothing
to do. -/
theorem edge_cases (p : PortIn) (s : State) :
    (p.rst = true ∧ edge p s = .next (resetEdge s)) ∨
    (p.rst = false ∧ s.wasReset = false ∧ edge p s = .next (unknownEdge s)) ∨
    (p.rst = false ∧ s.wasReset = true ∧ ∃ f, s.inflight = some f ∧ 1 < f.rem ∧
      edge p s = .next (loadSlot f.op f.data (f.rem - 1) (tick s))) ∨
    (p.rst = false ∧ s.wasReset = true ∧ ∃ f, s.inflight = some f ∧ f.rem ≤ 1 ∧
      edge p s = exec (slotInstr f) (freeSlot (tick s))) ∨
    (p.rst = false ∧ s.inflight = none ∧ reqReady s = true ∧ p.reqValid = true ∧
      edge p s = .next (loadSlot p.op p.data (latency s.build p.op) (tick s))) ∨
    (p.rst = false ∧ s.wasReset = true ∧ s.inflight = none ∧ (reqReady s = false ∨ p.reqValid = false) ∧
      edge p s = .next (tick s)) := by
  cases hr : p.rst
  · cases hw : s.wasReset
    · exact .inr (.inl ⟨rfl, rfl, by simp [edge, hr, hw]⟩)
    refine .inr (.inr ?_)
    cases hf : s.inflight with
    | some f =>
      by_cases h : f.rem ≤ 1
      · exact .inr (.inl ⟨rfl, rfl, f, rfl, h, by simp [edge, hr, hw, hf, inFlightEdge, h]⟩)
      · exact .inl ⟨rfl, rfl, f, rfl, by omega, by simp [edge, hr, hw, hf, inFlightEdge, h]⟩
    | none =>
      by_cases h : (reqReady s && p.reqValid) = true
      · have h' : reqReady s = true ∧ p.reqValid = true := by simpa using h
        exact .inr (.inr (.inl ⟨rfl, rfl, h'.1, h'.2, by simp [edge, hr, hw, hf, idleEdge, h']⟩))
      · refine .inr (.inr (.inr ⟨rfl, rfl, rfl, ?_, by simp only [edge, hr, hw, hf, idleEdge, if_neg h]; simp⟩))
        cases h1 : reqReady s <;> cases h2 : p.reqValid <;> simp_all
  · exact .inl ⟨rfl, by simp [edge, hr]⟩

/-- A step of a legal build is one edge with the host's next inputs. -/
theorem step_legal {s : State} (h : buildLegal s.build) : step s = edge (nextInput s) (takeInput s) := if_pos h

/-- A step of an illegal build is refused (20_memory.md R47). -/
theorem step_illegal {s : State} (h : ¬ buildLegal s.build) : step s = .refused .illegalBuild := if_neg h

/-- Edges in a row: a run of `a` edges to `t` goes on from `t`. -/
theorem runEdges_add (a b : Nat) (s t : State) (h : runEdges a s = .next t) : runEdges (a + b) s = runEdges b t := by
  induction a generalizing s with
  | zero => cases h; rw [Nat.zero_add]
  | succ a ih =>
    rw [Nat.add_right_comm]
    cases hs : step s <;> simp only [runEdges, hs, reduceCtorEq] at h ⊢
    exact ih _ h

/-- One step of the host's run, by its answer. -/
theorem core_run_succ (M : Host.Core) (n : Nat) (s : M.State) :
    M.run (n + 1) s = match M.step s with
      | .next t => M.run n t
      | .fault f => .fault f
      | .refused q => .refused q := rfl

/-- `runEdges` is the host's run of the machine. -/
theorem runEdges_eq_run (n : Nat) (s : State) : Host.Core.run Sys2Proof.core n s = runEdges n s := by
  induction n generalizing s with
  | zero => rfl
  | succ n ih =>
    refine (core_run_succ Sys2Proof.core n s).trans ?_
    have hs : Sys2Proof.core.step s = step s := rfl
    rw [hs]
    cases h : step s with
    | next t => simp only [runEdges, h]; exact ih t
    | fault f => simp only [runEdges, h]; rfl
    | refused q => simp only [runEdges, h]; rfl

/-- The block is ready when it has been reset, nothing is in flight and the last edge had `rst = 0`
(30_encoding.md R62). -/
theorem reqReady_iff (s : State) : reqReady s = true ↔ s.wasReset = true ∧ s.inflight = none ∧ s.lastRst = false := by
  simp [reqReady]

/-- The output `req_ready` of a block that has been reset shows whether it is ready. -/
theorem readyPin_of_wasReset {s : State} (h : s.wasReset = true) : readyPin s = reqReady s := if_pos h

end Sys2Proof.Machine
end

