-- ==== Sys2Proof/Laws/PerInstr.lean ====
section
/-! SUPPORT. The statement made per instruction: the word an operation encodes to lies in a row of the opcode table
that carries the operation's own mnemonic (spec/opcode_table.json, 30_encoding.md R66, R70). -/

namespace Sys2Proof.Laws.InTable

/-- The encoded word is in a row of the opcode table with the operation's mnemonic. -/
def Statement (i : Instr) : Prop :=
  i.wellFormed = true → ∃ r ∈ opcodeRows, r.mnemonic = i.mnemonic ∧ r.covers (encode i) = true

theorem nop : Statement .nop := fun _ => ⟨⟨"NOP", 0x000000000, 0x700000000⟩, by decide, rfl, by decide⟩

theorem wrcfg (integ : BitVec 2) (gain : Bool) : Statement (.wrcfg integ gain) := fun _ =>
  ⟨⟨"WRCFG", 0x100000000, 0x700000000⟩, by decide, rfl, by revert integ gain; decide⟩

theorem rdreg (r : RegName) : Statement (.rdreg r) := fun _ => by
  cases r
  case temp => exact ⟨⟨"RDREG", 0x200000008, 0x70000000F⟩, by decide, rfl, by decide⟩
  all_goals exact ⟨⟨"RDREG", 0x200000000, 0x700000008⟩, by decide, rfl, by decide⟩

theorem calcLux (ch0 ch1 : Channel) : Statement (.calcLux ch0 ch1) := fun _ =>
  ⟨⟨"CALC", 0x300000000, 0x700000000⟩, by decide, rfl, by
    unfold OpRow.covers encode; rw [requestWord_opcode_mask]; change (requestWord 3 0 == (0x300000000 : ReqWord)) = true; decide⟩

theorem rdrom (t : Package) (idx : BitVec 3) (f : RomField) : Statement (.rdrom t idx f) := fun _ => by
  cases f
  case m => exact ⟨⟨"RDROM", 0x400000020, 0x700000030⟩, by decide, rfl, by cases t <;> revert idx <;> decide⟩
  all_goals exact ⟨⟨"RDROM", 0x400000000, 0x700000020⟩, by decide, rfl, by cases t <;> revert idx <;> decide⟩

theorem badOp (op : BitVec 3) : Statement (.badOp op) := by
  revert op; unfold Statement; decide

theorem badSel (sel : BitVec 4) : Statement (.badSel sel) := by
  revert sel; unfold Statement; decide

theorem badFld (t : Package) (idx : BitVec 3) : Statement (.badFld t idx) := fun _ =>
  ⟨⟨"reserved_RDROM_field__BadFld", 0x400000030, 0x700000030⟩, by decide, rfl, by cases t <;> revert idx <;> decide⟩

end Sys2Proof.Laws.InTable
end

