-- ==== Sys2Proof/Tests/Slice0.lean ====
section
/-! SUPPORT. Small tests with expected results from spec/ (mostly the vectors of 95_test_vectors.md), and for each
statement with hypotheses a witness that meets them. -/

namespace Sys2Proof.Tests

open Sys2Proof.Machine

/-! ### WellFormed: an ill-formed term for each check -/

theorem test_wellFormed_refuses_badOp_4 : (Instr.badOp 4).wellFormed = false := by decide
theorem test_wellFormed_refuses_badSel_8 : (Instr.badSel 8).wellFormed = false := by decide
theorem test_wellFormed_takes_boundaries : (Instr.badOp 5).wellFormed ∧ (Instr.badSel 9).wellFormed := by decide

/-! ### Decoding words written out from 30_encoding.md R65 to R69: op, then the 32 data bits -/

theorem test_decode_nop : decode (0b000#3 ++ 0b11111111111111111111111111111111#32) = .nop := by decide
theorem test_decode_wrcfg : decode (0b001#3 ++ 0b00000000000000000000000000010010#32) = .wrcfg 2 true := by decide
theorem test_decode_wrcfg_ignored : decode (0b001#3 ++ 0b11111111111111111111111011101100#32) = .wrcfg 0 false := by decide
theorem test_decode_rdreg_temp : decode (0b010#3 ++ 0b00000000000000000000000000001000#32) = .rdreg .temp := by decide
theorem test_decode_rdreg_ignored : decode (0b010#3 ++ 0b00000000000000000000000000010000#32) = .rdreg .cfg := by decide
theorem test_decode_badSel : decode (0b010#3 ++ 0b00000000000000000000000000001001#32) = .badSel 9 := by decide
theorem test_decode_calc : decode (0b011#3 ++ 0b00000000011001000000001111101000#32) = .calcLux 1000 100 := by decide
theorem test_decode_rdrom : decode (0b100#3 ++ 0b00000000000000000000000000011110#32) = .rdrom .cs 6 .b := by decide
theorem test_decode_badFld : decode (0b100#3 ++ 0b00000000000000000000000000111111#32) = .badFld .cs 7 := by decide
theorem test_decode_badOp : decode (0b101#3 ++ 0b00000000000000000000000000000000#32) = .badOp 5 := by decide
theorem test_decodeTableWord : decodeTableWord 40 0x3006403E8 = some (.calcLux 1000 100) ∧ decodeTableWord 40 (2 ^ 35) = none := by
  decide

/-! ### The default ROM meets 20_memory.md R47, and a ROM that does not is refused -/

theorem test_default_build_legal : buildLegal defaultBuild := by decide
theorem test_illegal_build : ¬ buildLegal ⟨.tFnCl, ⟨defaultCs, defaultCs⟩, 1⟩ ∧ ¬ buildLegal ⟨.tFnCl, defaultRom, 0⟩ := by decide

/-! ### One operation each. `readyBlock p l c host` has package `p`, latency `l`, CFG fields `c` -/

/-- A ready block out of reset, with CFG as given and a host that drives `host`. -/
def readyBlock (p : Package) (l : Nat) (c : Cfg) (host : List PortIn) : State where
  build    := ⟨p, defaultRom, l⟩
  regs     := { resetRegs with cfg := c }
  inflight := none
  rsp      := none
  lastRst  := false
  wasReset := true
  host     := host
  draws    := 0

/-- What `f` reads in the next state, if there is one. -/
def after {α : Type} (r : Result) (f : State → α) : Option α :=
  match r with
  | .next t => some (f t)
  | .fault _ => none
  | .refused _ => none

/-- One step with the request word `w` placed in the slot. -/
def run1 (w : Nat) (s : State) : Result := step (s.withFetchWord 40 w)

/-- A2: NOP ignores its data. -/
theorem test_nop : after (run1 0x0FFFFFFFF State.reset) (fun t => (t.rsp, t.regs)) = some (some ⟨false, 0⟩, resetRegs) := by
  decide
/-- A8: WRCFG ignores all but bits 4, 1 and 0; PKG stays 1. -/
theorem test_wrcfg_cs : after (run1 0x1FFFFFEEC (readyBlock .cs 1 ⟨2, false⟩ [])) (fun t => (t.rsp, readReg t .cfg)) =
    some (some ⟨false, 0x100⟩, 0x100) := by decide
/-- A9: WRCFG all ones; PKG stays 0. -/
theorem test_wrcfg_ones : after (run1 0x1FFFFFFFF State.reset) State.rsp = some (some ⟨false, 0x13⟩) := by decide
/-- A14 and A16: RDREG SEG after reset; RDREG #0x10 reads CFG. -/
theorem test_rdreg : after (run1 0x200000003 State.reset) State.rsp = some (some ⟨false, 15⟩) ∧
    after (run1 0x200000010 State.reset) State.rsp = some (some ⟨false, 2⟩) := by decide
/-- V31: CS, a clamp with sc0 > 0. -/
theorem test_calc_clamp : after (run1 0x300090007 (readyBlock .cs 1 ⟨0, true⟩ []))
    (fun t => (t.regs.sch0, t.regs.sch1, t.regs.ratio, t.regs.seg, t.regs.temp, t.regs.lux, statusWord t.regs.status)) =
    some (204, 263, 660, 7, 0, 0, 0x06) := by decide
/-- V18: just below a half rounds down. -/
theorem test_calc_round : after (run1 0x3008800FA (readyBlock .tFnCl 1 ⟨1, true⟩ []))
    (fun t => (t.rsp, t.regs.seg, t.regs.temp)) = some (some ⟨false, 5⟩, 5, 90111) := by decide
/-- A30 and A28: RDROM ignores bits [31:6]; RDROM CS, 8, K. -/
theorem test_rdrom : after (run1 0x4FFFFFFD0 State.reset) State.rsp = some (some ⟨false, 0x1F2⟩) ∧
    after (run1 0x40000000F State.reset) State.rsp = some (some ⟨false, 0x29A⟩) := by decide
/-- E2, E5, E7: each error outcome, its response and STATUS. -/
theorem test_errors : after (run1 0x612345678 State.reset) (fun t => (t.rsp, readReg t .status)) = some (some ⟨true, 0⟩, 0x11) ∧
    after (run1 0x20000000F State.reset) (fun t => (t.rsp, readReg t .status)) = some (some ⟨true, 0⟩, 0x21) ∧
    after (run1 0x40000003F State.reset) (fun t => (t.rsp, readReg t .status)) = some (some ⟨true, 0⟩, 0x31) := by decide

/-! ### The port, by the trace R-3: edges 1, 2 and 6 -/

/-- Edge 1: the request offered right after reset is not accepted. -/
theorem test_trace_edge1 : after (step (State.afterReset ⟨.tFnCl, defaultRom, 3⟩ [offer ⟨1, 0x12⟩] 0))
    (fun t => (reqReady t, t.inflight, t.rsp)) = some (true, none, none) := by decide
/-- Edge 4: CALC is accepted, three edges to go. -/
theorem test_trace_edge4 : after (step (readyBlock .tFnCl 3 ⟨2, true⟩ [offer ⟨3, 0x006403E8⟩]))
    (fun t => (reqReady t, t.inflight)) = some (false, some ⟨3, 0x006403E8, 3⟩) := by decide
/-- Edge 7: CALC completes. -/
theorem test_trace_edge7 : after (step { readyBlock .tFnCl 3 ⟨2, true⟩ [] with inflight := some ⟨3, 0x006403E8, 1⟩ })
    (fun t => (reqReady t, t.rsp, t.regs.lux)) = some (true, some ⟨false, 0x1BB⟩, 443) := by decide
/-- R-2: reset discards an operation in flight. -/
theorem test_reset_discards :
    after (step { readyBlock .tFnCl 3 ⟨2, true⟩ [⟨true, false, 0, 0⟩] with inflight := some ⟨3, 0x006403E8, 1⟩ })
    (fun t => (t.regs, t.inflight, t.rsp)) = some (resetRegs, none, none) := by decide

/-! ### Text (30_encoding.md R72, and the encodings of 95_test_vectors.md) -/

theorem test_text_wrcfg : ((parseLine "WRCFG gain=16, tint=402").bind assemble).map Request.text = some "1:0x00000012" := by decide
theorem test_text_rdrom : ((parseLine "rdrom CS, 8, K").bind assemble).map Request.text = some "4:0x0000000F" := by decide
theorem test_text_response : responseText false 0x1BB = "-> ok 0x000001BB" ∧ responseText true 0 = "-> err" := by decide

/-! ### Witnesses: the hypotheses of each statement can be met together -/

theorem witness_opcode_map_boundaries :
    (0x200000008 : ReqWord).toNat / 2 ^ 32 = 2 ∧ 0x200000008 % 2 ^ 32 % 16 = 8 ∧
    (0x200000009 : ReqWord).toNat / 2 ^ 32 = 2 ∧ 0x200000009 % 2 ^ 32 % 16 = 9 ∧
    0x400000020 % 2 ^ 32 / 16 % 4 = 2 ∧ 0x400000030 % 2 ^ 32 / 16 % 4 = 3 ∧
    (0x500000000 : ReqWord).toNat / 2 ^ 32 = 5 ∧ (0x7FFFFFFFF : ReqWord).toNat / 2 ^ 32 = 7 := by decide

/-- A block with a CALC in flight that completes at the next edge. -/
def calcDue : State := { readyBlock .cs 3 ⟨2, true⟩ [] with inflight := some ⟨3, 0x006403E8, 1⟩ }

theorem witness_completing_edge :
    buildLegal calcDue.build ∧ calcDue.wasReset = true ∧ calcDue.inflight = some ⟨3, 0x006403E8, 1⟩ ∧ (nextInput calcDue).rst = false := by decide
theorem witness_placed_word :
    buildLegal State.reset.build ∧ decodeTableWord 40 0x400000010 = some (.rdrom .tFnCl 0 .b) := by decide

/-- A ready block of latency 3 whose host offers a CALC and then, in vain, two more requests. -/
def calcOffered : State :=
  readyBlock .tFnCl 3 ⟨2, true⟩ [offer ⟨3, 0x006403E8⟩, offer ⟨2, 1⟩, offer ⟨2, 1⟩, idleInput]

theorem witness_accepted_operation :
    buildLegal calcOffered.build ∧ reqReady calcOffered = true ∧
    calcOffered.host = offer ⟨3, 0x006403E8⟩ :: ([offer ⟨2, 1⟩, offer ⟨2, 1⟩, idleInput] ++ []) ∧
    (∀ p ∈ [offer ⟨2, 1⟩, offer ⟨2, 1⟩, idleInput], p.rst = false) ∧
    [offer ⟨2, 1⟩, offer ⟨2, 1⟩, idleInput].length = latency calcOffered.build 3 ∧ 2 < latency calcOffered.build 3 := by decide
theorem witness_unaccepted_request :
    (State.afterReset defaultBuild [offer ⟨1, 0x12⟩] 0).wasReset = true ∧ (readyBlock .cs 1 ⟨2, false⟩ [idleInput]).wasReset = true ∧
    (State.afterReset defaultBuild [offer ⟨1, 0x12⟩] 0).host = [offer ⟨1, 0x12⟩] ∧
    reqReady (State.afterReset defaultBuild [offer ⟨1, 0x12⟩] 0) = false ∧
    reqReady (readyBlock .cs 1 ⟨2, false⟩ [idleInput]) = true ∧ idleInput.reqValid = false := by decide
theorem witness_request_sequence :
    buildLegal (readyBlock .cs 2 ⟨2, false⟩ []).build ∧ reqReady (readyBlock .cs 2 ⟨2, false⟩ []) = true ∧
    (schedule (readyBlock .cs 2 ⟨2, false⟩ []).build [⟨1, 0x12⟩, ⟨3, 0x006403E8⟩]).length = 5 := by decide

/-- A block that has just responded to a NOP. -/
def responding : State := { readyBlock .tFnCl 1 ⟨2, false⟩ [] with rsp := some ⟨false, 0⟩ }

theorem witness_pins :
    (pins responding).rspData = 0 ∧ State.reset.rsp = none ∧ State.reset.wasReset = true ∧ State.reset.lastRst = true := by decide
theorem regsInv_reset : RegsInv resetRegs := by constructor <;> decide
theorem witness_inv_with_response : BlockInv responding ∧ responding.rsp = some ⟨false, 0⟩ :=
  ⟨⟨by decide, rfl, regsInv_reset, by simp [responding, readyBlock], by simp [responding, readyBlock],
    by simp [responding, readyBlock], by simp [responding, readyBlock]⟩, by decide⟩
theorem witness_inv_steps : BlockInv responding ∧ ∃ t, step responding = .next t :=
  ⟨witness_inv_with_response.1, _, rfl⟩

/-- The registers after a CALC whose results are all 0, and an error. -/
def erredRegs : Regs :=
  { resetRegs with cfg := ⟨2, true⟩, chscale := 262144, seg := 1, status := ⟨true, true, false, 3⟩ }

/-- A block with ERR and LUXVALID set. -/
def erred : State := { readyBlock .tFnCl 1 ⟨2, true⟩ [offer ⟨0, 0⟩] with regs := erredRegs }

theorem witness_sticky :
    BlockInv erred ∧ (∀ p ∈ erred.host.take 2, p.rst = false) ∧ (∃ t, runEdges 2 erred = .next t) ∧
    erred.regs.status.err = true ∧ erred.regs.status.luxValid = true :=
  ⟨⟨by decide, rfl, by constructor <;> decide, by simp [erred, readyBlock], by simp [erred, readyBlock],
    by simp [erred, readyBlock], by simp [erred, readyBlock]⟩, by decide, ⟨_, rfl⟩, rfl, rfl⟩
/-- A finished run whose host later resets the block and only then offers a request. -/
def finished : State :=
  { readyBlock .tFnCl 1 ⟨2, false⟩ [idleInput, ⟨true, false, 0, 0⟩, offer ⟨3, 7⟩] with rsp := some ⟨false, 0⟩ }

theorem witness_run_finished :
    buildLegal finished.build ∧ RunFinished finished ∧ (∀ p ∈ finished.host.take 1, p.rst = false) :=
  ⟨by decide, ⟨rfl, rfl, by decide⟩, by decide⟩
/-- R-2 with a host that goes on offering: the run is over at the reset, and was not before it. -/
def interrupted : State :=
  { readyBlock .tFnCl 3 ⟨2, true⟩ [offer ⟨2, 1⟩, ⟨true, true, 2, 1⟩, offer ⟨2, 1⟩] with inflight := some ⟨3, 0x006403E8, 3⟩ }

theorem witness_run_interrupted :
    buildLegal interrupted.build ∧ interrupted.host = [offer ⟨2, 1⟩] ++ ⟨true, true, 2, 1⟩ :: [offer ⟨2, 1⟩] ∧
    (∀ q ∈ [offer ⟨2, 1⟩], q.rst = false) ∧ RunInterrupted interrupted 2 ∧
    after (runEdges 1 interrupted) (fun t => t.inflight) = some (some ⟨3, 0x006403E8, 2⟩) ∧
    (∀ p ∈ interrupted.host.take 1, p.rst = false) :=
  ⟨by decide, rfl, by decide, ⟨[offer ⟨2, 1⟩], ⟨true, true, 2, 1⟩, [offer ⟨2, 1⟩], rfl, rfl, by decide, rfl⟩, by decide, by decide⟩
theorem witness_reset_edge :
    buildLegal (readyBlock .cs 1 ⟨0, true⟩ [⟨true, true, 3, 7⟩, idleInput]).build ∧
    (nextInput (readyBlock .cs 1 ⟨0, true⟩ [⟨true, true, 3, 7⟩, idleInput])).rst = true := by decide
theorem witness_illegal_build_state : ¬ buildLegal ({ State.reset with build := ⟨.cs, ⟨defaultCs, defaultCs⟩, 1⟩ } : State).build := by
  decide
theorem witness_first_reset :
    buildLegal State.reset.build ∧ (∀ q ∈ [offer ⟨1, 0x12⟩, idleInput], q.rst = false) ∧ (⟨true, true, 3, 7⟩ : PortIn).rst = true := by
  decide
/-- R163: an edge with rst = 0 before any reset draws the output again: no value of it is known. -/
theorem test_unknown_edge :
    after (step (powerOn defaultBuild [offer ⟨1, 0x12⟩])) (fun t => (t.wasReset, readyPin t)) =
      some (false, Config.freeReqReady 1) := rfl
theorem witness_wrcfg_gain_zero : decode (requestWord 1 0x2) = .wrcfg 2 false := by decide
theorem witness_assembled_lines :
    (65535 < 65536 ∧ 65536 ≤ 65536) ∧ (1 ≤ 8 ∧ 8 ≤ 8 ∧ 9 ≤ 9) ∧
    assemble (.wrcfg 16 402) = some ⟨1, 0x12⟩ ∧ assemble (.wrcfg 1 13) = none ∧
    assemble (.rdreg .temp) = some ⟨2, 8⟩ ∧ assemble (.calcImm 0xFFFFFFFF) = some ⟨3, 0xFFFFFFFF⟩ ∧
    assemble (.calcImm 0x100000000) = none ∧ assemble (.req 7 0xFFFFFFFF) = some ⟨7, 0xFFFFFFFF⟩ ∧
    assemble (.req 8 0) = none ∧ assemble (.req 7 0x100000000) = none := by decide
theorem witness_finished_and_responding_step : ∃ t, runEdges 1 responding = .next t ∧ t.rsp = none := ⟨_, rfl, rfl⟩
theorem witness_reads_back : ∀ r ∈ ([⟨2, 9⟩, ⟨3, 5⟩, ⟨5, 0⟩] : List Request), r.op ≠ 1 := by decide
theorem witness_rdreg_clauses :
    [RegName.cfg, .lux, .status, .seg, .sch0, .sch1, .chscale, .ratio, .temp][(0x18 : Word).toNat % 16]? = some .temp ∧
    9 ≤ (0x19 : Word).toNat % 16 ∧ 9 ≤ (0xF : Word).toNat % 16 := by decide
theorem witness_rdrom_clauses :
    (if (0x2F : Word).toNat / 8 % 2 = 0 then State.reset.build.rom.tFnCl else State.reset.build.rom.cs)[(0x2F : Word).toNat % 8]? =
      some ⟨0x029A, 0, 0⟩ ∧
    [(0x029A : RomWord), 0, 0][(0x2F : Word).toNat / 16 % 4]? = some 0 ∧ (0x3F : Word).toNat / 16 % 4 = 3 := by decide
theorem witness_error_outcome :
    (Instr.badOp 7).wellFormed ∧ (Instr.badSel 15).wellFormed ∧ (Instr.badFld .cs 7).wellFormed := by decide

/-- The default ROM with other coefficients in entry 8 of both tables. -/
def otherEntryEight : BpRom :=
  ⟨defaultTFnCl.set 7 ⟨0x029A, 0x0123, 0x0045⟩, defaultCs.set 7 ⟨0x029A, 0x07FF, 0x0001⟩⟩

theorem witness_entry_eight :
    romLegal otherEntryEight ∧ otherEntryEight ≠ defaultRom ∧
    ∀ e f, (e = 7 ∧ f ≠ .k) ∨ romRead otherEntryEight .cs e f = romRead defaultRom .cs e f := by
  refine ⟨by decide, by decide, fun e f => ?_⟩
  cases f <;> revert e <;> decide
theorem witness_entry_eight_t :
    ∀ e f, (e = 7 ∧ f ≠ .k) ∨ romRead otherEntryEight .tFnCl e f = romRead defaultRom .tFnCl e f := by
  intro e f
  cases f <;> revert e <;> decide
/-- V7 and V8: a RATIO of K1 and of K1 + 1. -/
theorem witness_thresholds :
    after (exec (.calcLux 1024 128) (readyBlock .tFnCl 1 ⟨2, true⟩ [])) (fun t => t.regs.ratio.toNat) = some 64 ∧
    after (exec (.calcLux 1024 129) (readyBlock .tFnCl 1 ⟨2, true⟩ [])) (fun t => t.regs.ratio.toNat) = some 65 ∧
    (romRead defaultRom .tFnCl 0 .k).toNat = 64 := by decide
/-- V6: a scaled channel 0 of 0 with CLAMP. -/
theorem witness_scaled_zero :
    after (exec (.calcLux 0 500) (readyBlock .tFnCl 1 ⟨2, true⟩ [])) (fun t => (t.regs.sch0, t.regs.status.clamp)) =
      some (0, true) := by decide
theorem witness_gain_zero : State.reset.regs.cfg.gain = false := rfl
theorem witness_same_inputs_other_history :
    responding.regs.cfg = State.reset.regs.cfg ∧ responding.build.package = State.reset.build.package ∧
    responding.build.rom = State.reset.build.rom ∧ responding ≠ State.reset := by decide
theorem witness_other_table :
    ∀ e f, romRead ⟨defaultTFnCl, defaultTFnCl⟩ State.reset.build.package e f = romRead State.reset.build.rom State.reset.build.package e f := by
  intro e f
  rfl
theorem witness_integ_three : (readyBlock .tFnCl 1 ⟨3, true⟩ []).regs.cfg.integ = 3 := rfl

end Sys2Proof.Tests
end

section
/-! What an operation does to the registers and the response, said once (10_state.md R20, R32): the four kinds of
effect, and who takes which. -/

namespace Sys2Proof

/-- A reserved encoding: the operations that take the error outcome (60_exceptions.md R140). -/
def Instr.IsReserved (i : Instr) : Prop :=
  (∃ op, i = .badOp op) ∨ (∃ sel, i = .badSel sel) ∨ ∃ tbl idx, i = .badFld tbl idx

/-- An operation that only reads: NOP, RDREG, RDROM (40_access_ops.md R80, R84, R86). -/
def Instr.IsRead (i : Instr) : Prop :=
  i = .nop ∨ (∃ r, i = .rdreg r) ∨ ∃ tbl idx fld, i = .rdrom tbl idx fld

end Sys2Proof

namespace Sys2Proof.Machine

/-- `OpEffect s i g r`: the operation `i` done in `s` leaves the registers `g` and responds `r`. -/
inductive OpEffect (s : State) : Instr → Regs → Response → Prop
  | reads {i : Instr} (hi : i.IsRead) (data : Word) : OpEffect s i s.regs ⟨false, data⟩
  | writesCfg (integ : BitVec 2) (gain : Bool) :
      OpEffect s (.wrcfg integ gain) { s.regs with cfg := ⟨integ, gain⟩ }
        ⟨false, cfgWord s.build.package ⟨integ, gain⟩⟩
  | commits (ch0 ch1 : Channel) :
      OpEffect s (.calcLux ch0 ch1) (commitCalc (luxCalc s.build s.regs.cfg ch0 ch1) s).regs
        ⟨false, BitVec.ofNat 32 (luxCalc s.build s.regs.cfg ch0 ch1).lux⟩
  | errs {i : Instr} (hi : i.IsReserved) (e : ErrReason) :
      OpEffect s i { s.regs with status := statusAfterError e s.regs.status } ⟨true, 0⟩

/-- Every operation answers a next state with one response, and changes only the registers and the response
(10_state.md R34, 30_encoding.md R63). -/
theorem exec_opEffect (i : Instr) (s : State) :
    ∃ g r, OpEffect s i g r ∧ exec i s = .next { s with regs := g, rsp := some r } := by
  cases i with
  | nop => exact ⟨_, _, .reads (.inl rfl) 0, rfl⟩
  | wrcfg integ gain => exact ⟨_, _, .writesCfg integ gain, rfl⟩
  | rdreg r => exact ⟨_, _, .reads (.inr (.inl ⟨r, rfl⟩)) (readReg s r), rfl⟩
  | calcLux ch0 ch1 => exact ⟨_, _, .commits ch0 ch1, rfl⟩
  | rdrom tbl idx fld => exact ⟨_, _, .reads (.inr (.inr ⟨tbl, idx, fld, rfl⟩)) _, rfl⟩
  | badOp op => exact ⟨_, _, .errs (.inl ⟨op, rfl⟩) .badOp, rfl⟩
  | badSel sel => exact ⟨_, _, .errs (.inr (.inl ⟨sel, rfl⟩)) .badSel, rfl⟩
  | badFld tbl idx => exact ⟨_, _, .errs (.inr (.inr ⟨tbl, idx, rfl⟩)) .badFld, rfl⟩

namespace OpEffect

variable {s : State} {i : Instr} {g : Regs} {r : Response}

/-- Only CALC writes the results, LUXVALID and CLAMP (10_state.md R29 to R32). -/
theorem results_eq (h : OpEffect s i g r) (hi : ∀ ch0 ch1, i ≠ .calcLux ch0 ch1) :
    g = { s.regs with cfg := g.cfg, status := g.status } ∧
      g.status.luxValid = s.regs.status.luxValid ∧ g.status.clamp = s.regs.status.clamp := by
  cases h with
  | reads _ _ => exact ⟨rfl, rfl, rfl⟩
  | writesCfg _ _ => exact ⟨rfl, rfl, rfl⟩
  | commits ch0 ch1 => exact absurd rfl (hi ch0 ch1)
  | errs _ _ => exact ⟨rfl, rfl, rfl⟩

/-- Only WRCFG writes CFG (10_state.md R23). -/
theorem cfg_eq (h : OpEffect s i g r) (hi : ∀ integ gain, i ≠ .wrcfg integ gain) : g.cfg = s.regs.cfg := by
  cases h with
  | reads _ _ => rfl
  | writesCfg integ gain => exact absurd rfl (hi integ gain)
  | commits _ _ => rfl
  | errs _ _ => rfl

/-- Only a reserved encoding responds with an error or writes ERR and ECODE (10_state.md R32). -/
theorem err_eq (h : OpEffect s i g r) (hi : ¬ i.IsReserved) :
    r.err = false ∧ g.status.err = s.regs.status.err ∧ g.status.ecode = s.regs.status.ecode := by
  cases h with
  | reads _ _ => exact ⟨rfl, rfl, rfl⟩
  | writesCfg _ _ => exact ⟨rfl, rfl, rfl⟩
  | commits _ _ => exact ⟨rfl, rfl, rfl⟩
  | errs hr _ => exact absurd hr hi

/-- An error response has data 0 and comes with ERR set (60_exceptions.md R140). -/
theorem err_response (h : OpEffect s i g r) (hr : r.err = true) : r.data = 0 ∧ g.status.err = true := by
  cases h with
  | errs _ _ => exact ⟨rfl, rfl⟩
  | reads _ _ | writesCfg _ _ | commits _ _ => cases hr

/-- No operation clears ERR or LUXVALID (10_state.md R32, 60_exceptions.md R142). -/
theorem keeps_flags (h : OpEffect s i g r) :
    (s.regs.status.err = true → g.status.err = true) ∧
      (s.regs.status.luxValid = true → g.status.luxValid = true) := by
  cases h with
  | reads _ _ => exact ⟨id, id⟩
  | writesCfg _ _ => exact ⟨id, id⟩
  | commits _ _ => exact ⟨id, fun _ => rfl⟩
  | errs _ _ => exact ⟨fun _ => rfl, id⟩

end OpEffect

/-- Settles O26, by the kinds of effect an operation can have. -/
theorem eachRegisterHasItsOneWriter : Obligations.EachRegisterHasItsOneWriter := by
  intro i s
  obtain ⟨g, r, he, hx⟩ := exec_opEffect i s
  refine ⟨_, r, hx, rfl, he.results_eq, he.cfg_eq, fun hop hsel hfld => he.err_eq ?_⟩
  rintro (⟨op, h⟩ | ⟨sel, h⟩ | ⟨tbl, idx, h⟩)
  · exact hop op h
  · exact hsel sel h
  · exact hfld tbl idx h

end Sys2Proof.Machine
end

section
/-! What CALC computes with a legal ROM, as far as the invariant speaks of it (41_lux_calc.md R105 to R118). -/

namespace Sys2Proof.Machine

/-- The selected entry is never 8, because K7 = K8 (20_memory.md R47, 41_lux_calc.md R112). -/
theorem selectEntry_seg_le_seven {rom : BpRom} (h : romLegal rom) (t : Package) (ratio : Nat) :
    (selectEntry rom t ratio).seg ≤ 7 := by
  obtain ⟨e, hk, hlt, heq⟩ | ⟨-, heq⟩ := selectEntry_cases rom t ratio
  · have hne : e ≠ 7 := by
      rintro rfl
      have hk7 := (tableLegal_of_romLegal h t).2.1
      have hlt7 := hlt 6 (by decide)
      rw [hk7] at hlt7
      omega
    simp only [heq, entryNumber]
    omega
  · simp [heq]

/-- Where no entry is selected the coefficients are 0 (41_lux_calc.md R111). -/
theorem selectEntry_eq_zero {rom : BpRom} {t : Package} {ratio : Nat} (h : (selectEntry rom t ratio).seg = 0) :
    selectEntry rom t ratio = ⟨0, 0, 0⟩ := by
  obtain ⟨e, -, -, heq⟩ | ⟨-, heq⟩ := selectEntry_cases rom t ratio
  · simp [heq, entryNumber] at h
  · exact heq

variable (b : Build) (c : Cfg) (ch0 ch1 : Channel)

theorem luxCalc_cs : (luxCalc b c ch0 ch1).cs = chScale c := rfl
theorem luxCalc_sc0_le : (luxCalc b c ch0 ch1).sc0 ≤ 1918370 := scaled_le ch0 c
theorem luxCalc_sc1_le : (luxCalc b c ch0 ch1).sc1 ≤ 1918370 := scaled_le ch1 c

/-- RATIO as a quotient (41_lux_calc.md R107, R108). -/
theorem luxCalc_ratio : (luxCalc b c ch0 ch1).ratio =
    ((if (luxCalc b c ch0 ch1).sc0 = 0 then 0
      else (luxCalc b c ch0 ch1).sc1 * 1024 / (luxCalc b c ch0 ch1).sc0) + 1) / 2 := by
  simp [luxCalc, roundRatio, rawRatio, Nat.shiftRight_eq_div_pow, Nat.shiftLeft_eq]

/-- RATIO fits its width (41_lux_calc.md R118). -/
theorem luxCalc_ratio_le : (luxCalc b c ch0 ch1).ratio ≤ 982205440 := by
  have hsc1 := luxCalc_sc1_le b c ch0 ch1
  rw [luxCalc_ratio]
  split
  · omega
  · have hdiv := Nat.div_le_self ((luxCalc b c ch0 ch1).sc1 * 1024) (luxCalc b c ch0 ch1).sc0
    omega

/-- LUX is TEMP rounded and scaled down (41_lux_calc.md R114, R115). -/
theorem luxCalc_lux : (luxCalc b c ch0 ch1).lux = ((luxCalc b c ch0 ch1).tc + 8192) / 16384 := by
  simp [luxCalc, luxOf, Nat.shiftRight_eq_div_pow]

/-- A clamped TEMP is 0 (41_lux_calc.md R113). -/
theorem luxCalc_tc_of_clamp (h : (luxCalc b c ch0 ch1).clamp = true) : (luxCalc b c ch0 ch1).tc = 0 := by
  simp only [luxCalc, decide_eq_true_eq] at h ⊢
  omega

/-- With no entry selected TEMP is 0 (41_lux_calc.md R111). -/
theorem luxCalc_tc_of_seg_zero (h : (luxCalc b c ch0 ch1).seg = 0) : (luxCalc b c ch0 ch1).tc = 0 := by
  simp only [luxCalc] at h ⊢
  simp [selectEntry_eq_zero h, tempOf]

/-- TEMP as a difference cut off at 0 (41_lux_calc.md R113). -/
theorem luxCalc_tc : (luxCalc b c ch0 ch1).tc =
    (luxCalc b c ch0 ch1).sc0 * (selectEntry b.rom b.package (luxCalc b c ch0 ch1).ratio).b -
      (luxCalc b c ch0 ch1).sc1 * (selectEntry b.rom b.package (luxCalc b c ch0 ch1).ratio).m := by
  rw [← Int.toNat_sub, Int.natCast_mul, Int.natCast_mul]
  rfl

variable {b}

theorem luxCalc_seg_le (hb : romLegal b.rom) : (luxCalc b c ch0 ch1).seg ≤ 7 := selectEntry_seg_le_seven hb _ _

/-- TEMP fits its width: it is at most the greatest SCH0 times the greatest B (41_lux_calc.md R118). -/
theorem luxCalc_tc_le (hb : romLegal b.rom) : (luxCalc b c ch0 ch1).tc ≤ 3926903390 := by
  obtain ⟨-, hB, -⟩ := selectEntry_le hb b.package (luxCalc b c ch0 ch1).ratio
  have hprod := Nat.mul_le_mul (luxCalc_sc0_le b c ch0 ch1) hB
  rw [luxCalc_tc]
  omega

end Sys2Proof.Machine
end

section
/-! Every edge keeps the invariant (10_state.md R29 to R33): first the registers through an operation, then the block
through each way an edge can answer. -/

namespace Sys2Proof.Machine

/-- An error outcome keeps the invariant of the registers (60_exceptions.md R140). -/
theorem RegsInv.statusAfterError {g : Regs} (h : RegsInv g) (e : ErrReason) :
    RegsInv { g with status := statusAfterError e g.status } :=
  { h with ecode_iff := by simpa using errCode_ne_zero e }

/-- A number that fits its width is stored whole (00_scope.md R8). -/
theorem toNat_ofNat_of_lt {w n : Nat} (h : n < 2 ^ w) : (BitVec.ofNat w n).toNat = n := by
  rw [BitVec.toNat_ofNat, Nat.mod_eq_of_lt h]

/-- CALC with a legal ROM keeps the invariant of the registers (41_lux_calc.md R116, R118). -/
theorem RegsInv.commitCalc {s : State} (h : RegsInv s.regs) (hb : romLegal s.build.rom) (c : Cfg) (ch0 ch1 : Channel) :
    RegsInv (commitCalc (luxCalc s.build c ch0 ch1) s).regs := by
  have hcs := chScale_cases c
  rw [← luxCalc_cs s.build c ch0 ch1] at hcs
  have hsc0 := luxCalc_sc0_le s.build c ch0 ch1
  have hsc1 := luxCalc_sc1_le s.build c ch0 ch1
  have hratio := luxCalc_ratio s.build c ch0 ch1
  have hratio_le := luxCalc_ratio_le s.build c ch0 ch1
  have hlux := luxCalc_lux s.build c ch0 ch1
  have hclamp := luxCalc_tc_of_clamp s.build c ch0 ch1
  have hnone := luxCalc_tc_of_seg_zero s.build c ch0 ch1
  have hseg := luxCalc_seg_le c ch0 ch1 hb
  have htc := luxCalc_tc_le c ch0 ch1 hb
  generalize luxCalc s.build c ch0 ch1 = v at *
  have seg_toNat : (BitVec.ofNat 4 v.seg).toNat = v.seg := toNat_ofNat_of_lt (by omega)
  have sch0_toNat : (BitVec.ofNat 32 v.sc0).toNat = v.sc0 := toNat_ofNat_of_lt (by omega)
  have sch1_toNat : (BitVec.ofNat 32 v.sc1).toNat = v.sc1 := toNat_ofNat_of_lt (by omega)
  have temp_toNat : (BitVec.ofNat 32 v.tc).toNat = v.tc := toNat_ofNat_of_lt (by omega)
  constructor
  case ecode_iff => exact h.ecode_iff
  case seg_iff =>
    have hne : BitVec.ofNat 4 v.seg ≠ 15 := fun h15 => by
      have h15' := congrArg BitVec.toNat h15
      simp [seg_toNat] at h15'
      omega
    simpa using hne
  case seg_legal => exact .inl (seg_toNat.le.trans hseg)
  case before_calc => intro hv; cases hv
  case none_found =>
    intro h0
    have h0' : v.seg = 0 := seg_toNat.symm.trans (congrArg BitVec.toNat h0)
    simp [hnone h0']
  case clamped =>
    intro hc
    simp [hclamp hc]
  case lux_eq =>
    simp only [commitCalc_lux, commitCalc_temp, temp_toNat]
    rw [toNat_ofNat_of_lt (by omega), hlux]
  case ratio_eq =>
    simp only [commitCalc_ratio, commitCalc_sch0, commitCalc_sch1, sch0_toNat, sch1_toNat]
    rw [toNat_ofNat_of_lt (by omega), hratio]
  case chscale_legal =>
    rw [commitCalc_chscale, toNat_ofNat_of_lt (by omega)]
    exact hcs
  case sch0_le => exact sch0_toNat.le.trans hsc0
  case sch1_le => exact sch1_toNat.le.trans hsc1
  case temp_le => exact temp_toNat.le.trans htc

/-- Every operation of a legal build keeps the invariant of the registers. -/
theorem OpEffect.regsInv {s : State} {i : Instr} {g : Regs} {r : Response} (h : OpEffect s i g r)
    (hb : romLegal s.build.rom) (hs : RegsInv s.regs) : RegsInv g := by
  cases h with
  | reads _ _ => exact hs
  | writesCfg _ _ => exact { hs with }
  | commits ch0 ch1 => exact hs.commitCalc hb _ ch0 ch1
  | errs _ e => exact hs.statusAfterError e

/-- Right after an edge with `rst = 1` the invariant holds (70_reset_and_hazards.md R160). -/
theorem blockInv_afterReset {b : Build} (hb : buildLegal b) (host : List PortIn) (n : Nat) :
    BlockInv (State.afterReset b host n) where
  build_legal := hb
  was_reset := rfl
  regs_inv := show RegsInv resetRegs by constructor <;> decide
  slot_rem := nofun
  slot_quiet := nofun
  err_rsp := nofun
  after_rst := fun _ => ⟨rfl, rfl, rfl⟩

/-- An edge that completes nothing drives no response, so the invariant asks only about the slot it leaves. -/
theorem BlockInv.of_slot {s : State} (h : BlockInv s) {slot : Option InFlight}
    (hslot : ∀ f, slot = some f → 1 ≤ f.rem ∧ f.rem ≤ latency s.build f.op) :
    BlockInv { tick (takeInput s) with inflight := slot } where
  build_legal := h.build_legal
  was_reset := h.was_reset
  regs_inv := h.regs_inv
  slot_rem := hslot
  slot_quiet := fun _ _ => ⟨rfl, rfl⟩
  err_rsp := nofun
  after_rst := nofun

/-- An edge that completes an operation keeps the invariant. -/
theorem BlockInv.of_exec {s t : State} (h : BlockInv s) {i : Instr}
    (ht : exec i (freeSlot (tick (takeInput s))) = .next t) : BlockInv t := by
  obtain ⟨g, r, he, hx⟩ := exec_opEffect i (freeSlot (tick (takeInput s)))
  obtain rfl := Host.Outcome.next.inj (hx.symm.trans ht)
  exact {
    build_legal := h.build_legal
    was_reset := h.was_reset
    regs_inv := he.regsInv h.build_legal.1 h.regs_inv
    slot_rem := nofun
    slot_quiet := nofun
    err_rsp := fun _ hr => Option.some.inj hr ▸ he.err_response
    after_rst := nofun }

/-- Every operation takes at least one edge (30_encoding.md R64). -/
theorem one_le_latency {b : Build} (hb : buildLegal b) (op : BitVec 3) : 1 ≤ latency b op := by
  unfold latency
  split
  · exact hb.2
  · exact le_rfl

/-- Settles O24: a reset edge sets the reset state, a completing edge runs one operation, and every other edge leaves
the registers alone. -/
theorem everyStepKeepsTheInvariant : Obligations.EveryStepKeepsTheInvariant := by
  intro s t h hst
  have hb := h.build_legal
  rw [step_legal hb] at hst
  obtain ⟨-, he⟩ | ⟨-, hw, -⟩ | ⟨-, -, f, hf, hrem, he⟩ | ⟨-, -, f, -, -, he⟩ | ⟨-, -, -, -, he⟩ | ⟨-, -, -, -, he⟩ :=
    edge_cases (nextInput s) (takeInput s)
  · -- Reset.
    cases he.symm.trans hst
    exact blockInv_afterReset hb _ _
  · -- An edge before the first reset, which the invariant excludes.
    exact absurd (hw.symm.trans h.was_reset) (by decide)
  · -- One edge fewer to go.
    cases he.symm.trans hst
    obtain ⟨-, hle⟩ := h.slot_rem f hf
    refine h.of_slot fun f' hf' => ?_
    cases hf'
    exact ⟨Nat.le_sub_one_of_lt hrem, (Nat.sub_le _ _).trans hle⟩
  · -- Completion.
    exact h.of_exec (he.symm.trans hst)
  · -- Acceptance.
    cases he.symm.trans hst
    refine h.of_slot fun f' hf' => ?_
    cases hf'
    exact ⟨one_le_latency hb _, le_rfl⟩
  · -- Nothing to do.
    cases he.symm.trans hst
    exact h.of_slot (slot := s.inflight) h.slot_rem

end Sys2Proof.Machine
end

section
/-! Runs without reset: the invariant and the sticky bits through any number of edges (10_state.md R32,
60_exceptions.md R142). -/

namespace Sys2Proof.Machine

/-- A step that answers a next state is of a legal build (20_memory.md R47). -/
theorem buildLegal_of_step {s t : State} (h : step s = .next t) : buildLegal s.build := by
  by_contra hb
  rw [step_illegal hb] at h
  cases h

/-- What an edge without reset does to a block that has been reset: the slot alone changes, or one operation
completes. -/
theorem step_cases_of_noReset {s t : State} (hw : s.wasReset = true) (hr : (nextInput s).rst = false)
    (hst : step s = .next t) :
    (∃ slot, t = { tick (takeInput s) with inflight := slot }) ∨
    (∃ i g r, OpEffect (freeSlot (tick (takeInput s))) i g r ∧
      t = { freeSlot (tick (takeInput s)) with regs := g, rsp := some r }) := by
  rw [step_legal (buildLegal_of_step hst)] at hst
  obtain ⟨hr', -⟩ | ⟨-, hw', -⟩ | ⟨-, -, f, -, -, he⟩ | ⟨-, -, f, -, -, he⟩ | ⟨-, -, -, -, he⟩ | ⟨-, -, -, -, he⟩ :=
    edge_cases (nextInput s) (takeInput s)
  · exact absurd (hr'.symm.trans hr) (by decide)
  · exact absurd (hw'.symm.trans hw) (by decide)
  · cases he.symm.trans hst
    exact .inl ⟨_, rfl⟩
  · obtain ⟨g, r, heff, hx⟩ := exec_opEffect (slotInstr f) (freeSlot (tick (takeInput s)))
    exact .inr ⟨_, g, r, heff, Host.Outcome.next.inj (hst.symm.trans (he.trans hx))⟩
  · cases he.symm.trans hst
    exact .inl ⟨_, rfl⟩
  · cases he.symm.trans hst
    exact .inl ⟨_, rfl⟩

/-- An edge without reset takes its inputs from the host's list. -/
theorem step_host_of_noReset {s t : State} (hw : s.wasReset = true) (hr : (nextInput s).rst = false)
    (hst : step s = .next t) : t.host = s.host.tail := by
  obtain ⟨slot, rfl⟩ | ⟨i, g, r, -, rfl⟩ := step_cases_of_noReset hw hr hst <;> rfl

/-- ERR and LUXVALID, where set in `s`, are set in `t` (10_state.md R32). -/
def FlagsKept (s t : State) : Prop :=
  (s.regs.status.err = true → t.regs.status.err = true) ∧
    (s.regs.status.luxValid = true → t.regs.status.luxValid = true)

theorem FlagsKept.trans {s t u : State} (h : FlagsKept s t) (h' : FlagsKept t u) : FlagsKept s u :=
  ⟨h'.1 ∘ h.1, h'.2 ∘ h.2⟩

/-- No edge without reset clears ERR or LUXVALID. -/
theorem step_flagsKept {s t : State} (hw : s.wasReset = true) (hr : (nextInput s).rst = false)
    (hst : step s = .next t) : FlagsKept s t := by
  obtain ⟨slot, rfl⟩ | ⟨i, g, r, heff, rfl⟩ := step_cases_of_noReset hw hr hst
  · exact ⟨id, id⟩
  · exact heff.keeps_flags

/-- No reset at the next `n + 1` edges: none at the next one, and none at the `n` after it. -/
theorem noReset_succ_iff (s : State) (n : Nat) :
    (∀ p ∈ s.host.take (n + 1), p.rst = false) ↔
      (nextInput s).rst = false ∧ ∀ p ∈ s.host.tail.take n, p.rst = false := by
  cases h : s.host <;> simp [nextInput, h, idleInput]

/-- A run without reset keeps the invariant, and ERR and LUXVALID where they are set. -/
theorem runEdges_blockInv_flagsKept {n : Nat} {s t : State} (h : BlockInv s)
    (hr : ∀ p ∈ s.host.take n, p.rst = false) (hrun : runEdges n s = .next t) : BlockInv t ∧ FlagsKept s t := by
  induction n generalizing s with
  | zero =>
    cases hrun
    exact ⟨h, id, id⟩
  | succ n ih =>
    obtain ⟨hnext, hrest⟩ := (noReset_succ_iff s n).1 hr
    cases hu : step s with
    | next u =>
      rw [← step_host_of_noReset h.was_reset hnext hu] at hrest
      simp only [runEdges, hu] at hrun
      obtain ⟨hinv, hkept⟩ := ih (everyStepKeepsTheInvariant s u h hu) hrest hrun
      exact ⟨hinv, (step_flagsKept h.was_reset hnext hu).trans hkept⟩
    | fault f => simp [runEdges, hu] at hrun
    | refused q => simp [runEdges, hu] at hrun

/-- Settles O25: every edge keeps the two flags, and the invariant ties ECODE to ERR. -/
theorem errAndLuxvalidStickUntilReset : Obligations.ErrAndLuxvalidStickUntilReset := by
  intro s t n h hr hrun
  obtain ⟨hinv, herr, hlux⟩ := runEdges_blockInv_flagsKept h hr hrun
  exact ⟨fun hs => ⟨herr hs, hinv.regs_inv.ecode_iff.1 (herr hs)⟩, hlux⟩

end Sys2Proof.Machine
end

section
/-! An accepted operation, edge by edge: its acceptance, the edges it waits, and its completion (10_state.md R28, R33;
30_encoding.md R62 to R64). -/

namespace Sys2Proof.Machine

/-- An edge without reset while an operation is in flight. -/
theorem edge_of_inflight {p : PortIn} {s : State} {f : InFlight} (hr : p.rst = false) (hw : s.wasReset = true)
    (hf : s.inflight = some f) : edge p s = inFlightEdge f s := by
  simp [edge, hr, hw, hf]

/-- An edge without reset with nothing in flight. -/
theorem edge_of_idle {p : PortIn} {s : State} (hr : p.rst = false) (hw : s.wasReset = true)
    (hf : s.inflight = none) : edge p s = idleEdge p s := by
  simp [edge, hr, hw, hf]

/-- Settles O9: the edge counts the slot down to its completion, which is exec on the ticked state. -/
theorem completingEdgeRunsDecodedOperation : Obligations.CompletingEdgeRunsDecodedOperation := by
  intro s f hb hw hf hrem hr
  rw [step_legal hb, edge_of_inflight (s := takeInput s) hr hw hf, inFlightEdge, if_pos hrem.le]
  rfl

/-- A table word decodes as its low 35 bits (30_encoding.md R65). -/
theorem decode_of_decodeTableWord {nbits w : Nat} {i : Instr} (h : decodeTableWord nbits w = some i) :
    decode (BitVec.ofNat 35 w) = i := by
  by_cases hw : w < 2 ^ 35
  · simpa [decodeTableWord, decodeNat_of_lt hw] using h
  · rw [decodeTableWord, decodeNat, if_neg hw] at h
    cases h

/-- Settles O10: the placed word is an operation in flight with one edge to go. -/
theorem placedWordRunsAtNextStep : Obligations.PlacedWordRunsAtNextStep := by
  intro s nbits w i hb hi
  have hstep := completingEdgeRunsDecodedOperation (s.withFetchWord nbits w) _ hb rfl rfl rfl rfl
  rw [hstep, requestWord_fields, decode_of_decodeTableWord hi]
  rfl

/-- The block `k` edges after it accepted `r` in `s`, while the operation is in flight. -/
def waiting (s : State) (r : Request) (k : Nat) : State :=
  { s with
    inflight := some ⟨r.op, r.data, latency s.build r.op - k⟩
    rsp := none
    lastRst := false
    host := s.host.drop (k + 1)
    draws := s.draws + (k + 1) }

/-- A ready block accepts what the host offers (30_encoding.md R62). -/
theorem step_accept {s : State} {r : Request} (hb : buildLegal s.build) (hready : reqReady s = true)
    (hoff : nextInput s = offer r) : step s = .next (waiting s r 0) := by
  obtain ⟨hw, hf, -⟩ := (reqReady_iff s).1 hready
  have hready' : reqReady (takeInput s) = true := hready
  rw [step_legal hb, hoff, edge_of_idle (s := takeInput s) rfl hw hf, idleEdge, hready']
  simp [offer, waiting, loadSlot, tick, takeInput]

/-- Before its last edge an operation in flight only waits (10_state.md R33). -/
theorem step_waiting {s : State} {r : Request} {k : Nat} (hb : buildLegal s.build) (hw : s.wasReset = true)
    (hk : k + 1 < latency s.build r.op) (hr : (nextInput (waiting s r k)).rst = false) :
    step (waiting s r k) = .next (waiting s r (k + 1)) := by
  have hrem : ¬ latency s.build r.op - k ≤ 1 := by omega
  rw [step_legal (s := waiting s r k) hb, edge_of_inflight (s := takeInput (waiting s r k)) hr hw rfl, inFlightEdge,
    if_neg hrem]
  simp [waiting, loadSlot, tick, takeInput, Nat.sub_sub, Nat.add_assoc]

section

variable {s : State} {r : Request} {ins rest : List PortIn} (hb : buildLegal s.build) (hready : reqReady s = true)
  (hhost : s.host = offer r :: (ins ++ rest)) (hins : ∀ p ∈ ins, p.rst = false)
  (hlen : ins.length = latency s.build r.op)

include hhost hins hlen

/-- The host drives no reset while the operation is in flight. -/
theorem nextInput_waiting_rst {k : Nat} (hk : k < latency s.build r.op) : (nextInput (waiting s r k)).rst = false := by
  have hk' : k < ins.length := hlen ▸ hk
  have hnext : nextInput (waiting s r k) = ins[k] := by
    simp [nextInput, waiting, hhost, List.headD_eq_head?_getD, List.head?_drop, List.getElem?_append_left hk', hk']
  rw [hnext]
  exact hins _ (List.getElem_mem hk')

include hb hready

/-- From acceptance to the edge before completion the block only waits (30_encoding.md R62, R64). -/
theorem runEdges_waiting {k : Nat} (hk : k < latency s.build r.op) : runEdges (k + 1) s = .next (waiting s r k) := by
  induction k with
  | zero =>
    have hacc := step_accept hb hready (show nextInput s = offer r by rw [nextInput, hhost]; rfl)
    simp [runEdges, hacc]
  | succ k ih =>
    have hw := ((reqReady_iff s).1 hready).1
    have hstep := step_waiting hb hw hk (nextInput_waiting_rst hhost hins hlen (Nat.lt_of_succ_lt hk))
    rw [runEdges_add (k + 1) 1 s _ (ih (Nat.lt_of_succ_lt hk))]
    simp [runEdges, hstep]

/-- An operation clocked from its acceptance to its completion is exec of the decoded request (10_state.md R28). -/
theorem runEdges_operation : runEdges (latency s.build r.op + 1) s =
    exec (decode (requestWord r.op r.data))
      { s with rsp := none, host := rest, draws := s.draws + latency s.build r.op + 1 } := by
  obtain ⟨hw, hf, hrst⟩ := (reqReady_iff s).1 hready
  obtain ⟨k, hk⟩ : ∃ k, latency s.build r.op = k + 1 := Nat.exists_eq_add_of_le' (one_le_latency hb r.op)
  have hlt : k < latency s.build r.op := by omega
  have hrem : latency s.build r.op - k = 1 := by omega
  have hdrop : (s.host.drop (k + 1)).tail = rest := by
    rw [List.tail_drop, hhost, List.drop_succ_cons, ← hk, ← hlen, List.drop_left]
  have hlast : step (waiting s r k) = exec (decode (requestWord r.op r.data))
      { s with rsp := none, host := rest, draws := s.draws + latency s.build r.op + 1 } := by
    rw [completingEdgeRunsDecodedOperation (waiting s r k) _ hb hw rfl hrem
      (nextInput_waiting_rst hhost hins hlen hlt)]
    simp only [waiting, hdrop, hf, hrst, hk, Nat.add_assoc]
  rw [hk, runEdges_add (k + 1) 1 s _ (runEdges_waiting hb hready hhost hins hlen hlt), ← hk, ← hlast]
  cases h : step (waiting s r k) <;> simp [runEdges, h]

end

/-- The output `req_ready`, with a response or without (30_encoding.md R61). -/
@[simp] theorem pins_reqReady (s : State) : (pins s).reqReady = readyPin s := by
  cases h : s.rsp <;> simp [pins, h]

/-- The output `rsp_valid` (30_encoding.md R63). -/
@[simp] theorem pins_rspValid (s : State) : (pins s).rspValid = s.rsp.isSome := by
  cases h : s.rsp <;> simp [pins, h]

/-- A block with an operation in flight shows nothing (30_encoding.md R62, R63). -/
theorem pins_waiting {s : State} (hw : s.wasReset = true) (r : Request) (k : Nat) :
    (pins (waiting s r k)).reqReady = false ∧ (pins (waiting s r k)).rspValid = false := by
  rw [pins_reqReady, pins_rspValid, readyPin_of_wasReset (s := waiting s r k) hw]
  simp [reqReady, waiting]

/-- Settles O13: `k` edges after acceptance the block is the waiting one. -/
theorem nothingShowsWhileInFlight : Obligations.NothingShowsWhileInFlight := by
  intro s r ins rest k hb hready hhost hins hlen hk
  have hw := ((reqReady_iff s).1 hready).1
  exact ⟨_, runEdges_waiting hb hready hhost hins hlen hk, rfl, pins_waiting hw r k⟩

/-- Settles O14: an operation of a ready block leaves the slot empty and the block out of reset. -/
theorem acceptedOperationIsAtomic : Obligations.AcceptedOperationIsAtomic := by
  intro s r ins rest hb hready hhost hins hlen
  rw [runEdges_operation hb hready hhost hins hlen]
  obtain ⟨g, rsp, -, hx⟩ := exec_opEffect (decode (requestWord r.op r.data))
    { s with rsp := none, host := rest, draws := s.draws + latency s.build r.op + 1 }
  exact ⟨_, hx, hready, hx⟩

end Sys2Proof.Machine
end

section
/-! The words the registers read as (10_state.md R23, R26, R27, R31, R32). -/

namespace Sys2Proof.Machine

/-- CFG as a number: its fields at bits 0, 4 and 8 (10_state.md R23). -/
theorem cfgWord_toNat (p : Package) (c : Cfg) : (cfgWord p c).toNat =
    c.integ.toNat + 16 * c.gain.toNat + 256 * (if p = .cs then 1 else 0) := by
  obtain ⟨integ, gain⟩ := c
  cases p <;> revert integ gain <;> decide

/-- STATUS as a number: its fields at bits 0, 1, 2 and 4 (10_state.md R32). -/
theorem statusWord_toNat (st : Status) : (statusWord st).toNat =
    st.err.toNat + 2 * st.luxValid.toNat + 4 * st.clamp.toNat + 16 * st.ecode.toNat := by
  obtain ⟨err, luxValid, clamp, ecode⟩ := st
  revert err luxValid clamp ecode
  decide

/-- SEG as a number: its code (10_state.md R31). -/
theorem segWord_toNat (seg : BitVec 4) : (segWord seg).toNat = seg.toNat := by
  revert seg
  decide

/-- Settles O28: the three words made of fields, and the registers that are their own word. -/
theorem registerWordsShowTheirFields : Obligations.RegisterWordsShowTheirFields := fun _ =>
  ⟨cfgWord_toNat _ _, statusWord_toNat _, segWord_toNat _, rfl, rfl, rfl, rfl, rfl, rfl⟩

end Sys2Proof.Machine
end

section
/-! CALC with the integration code 3 (10_state.md R24, 92_eei_decisions.md D5). -/

namespace Sys2Proof.Machine

/-- Code 3 takes the 402 ms base, as code 2 does (10_state.md R24, 41_lux_calc.md R105). -/
theorem chScale_integ_three (gain : Bool) : chScale ⟨3, gain⟩ = chScale ⟨2, gain⟩ := rfl

/-- CALC uses CFG only through chScale (41_lux_calc.md R105, R106). -/
theorem luxCalc_congr_cfg (b : Build) {c c' : Cfg} (h : chScale c = chScale c') (ch0 ch1 : Channel) :
    luxCalc b c ch0 ch1 = luxCalc b c' ch0 ch1 := by
  simp [luxCalc, h]

/-- Settles O48: the two configurations have one chScale. -/
theorem integThreeComputesAs402ms : Obligations.IntegThreeComputesAs402ms := by
  rintro s _ ch0 ch1 hinteg rfl
  have hcfg : s.regs.cfg = ⟨3, s.regs.cfg.gain⟩ := by rw [← hinteg]
  have hcalc : luxCalc s.build s.regs.cfg ch0 ch1 = luxCalc s.build ⟨2, s.regs.cfg.gain⟩ ch0 ch1 :=
    luxCalc_congr_cfg _ (hcfg ▸ chScale_integ_three _) _ _
  refine ⟨_, _, rfl, rfl, ?_, ?_⟩
  · rw [respond_rsp, hcalc]
    rfl
  · rw [respond_regs, hcalc]
    rfl

end Sys2Proof.Machine
end

section
/-! What a step answers, whatever the host drives: a next state of the same build, unless the build is illegal
(20_memory.md R41, R47). -/

namespace Sys2Proof.Machine

/-- An edge always answers a next state, and no edge writes a build parameter (20_memory.md R41, 60_exceptions.md R142). -/
theorem edge_next_build (p : PortIn) (s : State) : ∃ t, edge p s = .next t ∧ t.build = s.build := by
  obtain ⟨-, he⟩ | ⟨-, -, he⟩ | ⟨-, -, f, -, -, he⟩ | ⟨-, -, f, -, -, he⟩ | ⟨-, -, -, -, he⟩ | ⟨-, -, -, -, he⟩ :=
    edge_cases p s
  · exact ⟨_, he, rfl⟩
  · exact ⟨_, he, rfl⟩
  · exact ⟨_, he, rfl⟩
  · obtain ⟨g, r, -, hx⟩ := exec_opEffect (slotInstr f) (freeSlot (tick s))
    exact ⟨_, he.trans hx, rfl⟩
  · exact ⟨_, he, rfl⟩
  · exact ⟨_, he, rfl⟩

/-- A step of a legal build answers a next state of that build. -/
theorem step_next_build {s : State} (h : buildLegal s.build) : ∃ t, step s = .next t ∧ t.build = s.build := by
  rw [step_legal h]
  exact edge_next_build (nextInput s) (takeInput s)

/-- Settles O17: every edge of a legal build answers a next state, and an illegal build is never clocked. -/
theorem onlyAnIllegalBuildStops : Obligations.OnlyAnIllegalBuildStops := by
  refine fun s => ⟨fun h => ?_, step_illegal⟩
  obtain ⟨t, ht, -⟩ := step_next_build h
  exact ⟨t, ht⟩

/-- Settles O18: a step that answers is an edge of a legal build, which keeps the build. -/
theorem noStepChangesTheRom : Obligations.NoStepChangesTheRom := by
  intro s t hst
  obtain ⟨u, hu, hbuild⟩ := step_next_build (buildLegal_of_step hst)
  obtain rfl := Host.Outcome.next.inj (hu.symm.trans hst)
  exact ⟨congrArg Build.rom hbuild, hbuild⟩

end Sys2Proof.Machine
end

section
/-! What an operation depends on: the build and the registers. So it does the same from two states that differ
elsewhere, and the same again when it is repeated (20_memory.md R48). -/

namespace Sys2Proof.Machine

/-- From two states with one build and the same registers an operation leaves the same registers and gives the same
response (10_state.md R28). -/
theorem exec_congr {s c : State} (hbuild : c.build = s.build) (hregs : c.regs = s.regs) (i : Instr) :
    ∃ g r, exec i s = .next { s with regs := g, rsp := some r } ∧
      exec i c = .next { c with regs := g, rsp := some r } := by
  cases s
  cases c
  subst hbuild hregs
  cases i
  case rdreg r => cases r <;> exact ⟨_, _, rfl, rfl⟩
  all_goals exact ⟨_, _, rfl, rfl⟩

/-- An operation done again at once answers the state it left (20_memory.md R48). -/
theorem exec_idempotent (i : Instr) (s : State) : ∃ t, exec i s = .next t ∧ exec i t = .next t := by
  cases i
  case rdreg r => cases r <;> exact ⟨_, rfl, rfl⟩
  all_goals exact ⟨_, rfl, rfl⟩

/-- An operation that only reads leaves the registers and the build alone (20_memory.md R48). -/
theorem exec_of_isRead {i : Instr} (hi : i.IsRead) (s : State) :
    ∃ t, exec i s = .next t ∧ t.regs = s.regs ∧ t.build = s.build := by
  obtain rfl | ⟨r, rfl⟩ | ⟨tbl, idx, fld, rfl⟩ := hi
  · exact ⟨_, exec_nop s, rfl, rfl⟩
  · exact ⟨_, exec_rdreg r s, rfl, rfl⟩
  · exact ⟨_, exec_rdrom tbl idx fld s, rfl, rfl⟩

/-- Settles O27: what each operation writes does not depend on what it wrote, and reads only respond. -/
theorem repeatingAnOperationChangesNothing : Obligations.RepeatingAnOperationChangesNothing :=
  ⟨exec_idempotent, fun _ s hi => exec_of_isRead hi s⟩

end Sys2Proof.Machine
end

section
/-! A list of requests presented by a patient host: the clocked block follows the atomic operations, one request after
the other (20_memory.md R51, 30_encoding.md R62). -/

namespace Sys2Proof.Machine

/-- A patient host does not reset the block. -/
theorem schedule_noReset (b : Build) (rs : List Request) : ∀ p ∈ schedule b rs, p.rst = false := by
  induction rs with
  | nil => simp [schedule]
  | cons r rs ih =>
    intro p hp
    simp only [schedule, List.mem_cons, List.mem_append, List.mem_replicate] at hp
    obtain rfl | ⟨-, rfl⟩ | hp := hp
    · rfl
    · rfl
    · exact ih p hp

/-- A request of the schedule takes one edge to accept and then its latency (30_encoding.md R64). -/
theorem length_schedule_cons (b : Build) (r : Request) (rs : List Request) :
    (schedule b (r :: rs)).length = latency b r.op + 1 + (schedule b rs).length := by
  simp only [schedule, List.length_cons, List.length_append, List.length_replicate]
  omega

/-- The clocked block `c` shows what the atomic view `s` does: the same build, registers and last response. -/
def Shows (c s : State) : Prop := c.build = s.build ∧ c.regs = s.regs ∧ c.rsp = s.rsp

/-- One request presented to a ready block is one atomic operation, after which the block is ready for the next
(10_state.md R28). -/
theorem runEdges_request {s c : State} {r : Request} {rest : List PortIn} (hb : buildLegal c.build)
    (hready : reqReady c = true) (hshows : Shows c s)
    (hhost : c.host = offer r :: (List.replicate (latency c.build r.op) idleInput ++ rest)) :
    ∃ t u, operate r s = .next t ∧ runEdges (latency c.build r.op + 1) c = .next u ∧ Shows u t ∧
      u.build = c.build ∧ u.host = rest ∧ reqReady u = true := by
  have hidle : ∀ p ∈ List.replicate (latency c.build r.op) idleInput, p.rst = false :=
    fun p hp => congrArg PortIn.rst (List.eq_of_mem_replicate hp)
  obtain ⟨hbuild, hregs, -⟩ := hshows
  obtain ⟨g, rsp, hs, hc⟩ := exec_congr (s := s)
    (c := { c with rsp := none, host := rest, draws := c.draws + latency c.build r.op + 1 }) hbuild hregs r.instr
  have hrun := runEdges_operation hb hready hhost hidle List.length_replicate
  exact ⟨_, _, hs, hrun.trans hc, ⟨hbuild, rfl, rfl⟩, rfl, rfl, hready⟩

/-- A list of requests presented to a ready block is the atomic operations in that order (20_memory.md R51). -/
theorem runEdges_schedule {rs : List Request} {s c : State} {rest : List PortIn} (hb : buildLegal c.build)
    (hready : reqReady c = true) (hshows : Shows c s) (hhost : c.host = schedule c.build rs ++ rest) :
    ∃ t u, operateAll rs s = .next t ∧ runEdges (schedule c.build rs).length c = .next u ∧ Shows u t ∧
      u.build = c.build ∧ u.host = rest ∧ reqReady u = true := by
  induction rs generalizing s c with
  | nil => exact ⟨s, c, rfl, rfl, hshows, rfl, hhost, hready⟩
  | cons r rs ih =>
    rw [schedule, List.cons_append, List.append_assoc] at hhost
    obtain ⟨s', c', hop, hrun, hshows', hbuild', hhost', hready'⟩ := runEdges_request hb hready hshows hhost
    rw [← hbuild'] at hb hhost'
    obtain ⟨t, u, hops, hruns, hend⟩ := ih hb hready' hshows' hhost'
    rw [hbuild'] at hruns hend
    refine ⟨t, u, ?_, ?_, hend⟩
    · simp only [operateAll, hop, hops]
    · rw [length_schedule_cons, runEdges_add _ _ _ _ hrun, hruns]

/-- A ready block is finished if its host offers nothing before the next reset (70_reset_and_hazards.md R169). -/
theorem runFinished_of_reqReady {s : State} (hready : reqReady s = true)
    (hquiet : ∀ p ∈ s.host.takeWhile (fun p => !p.rst), p.reqValid = false) : RunFinished s := by
  obtain ⟨hw, hf, hrst⟩ := (reqReady_iff s).1 hready
  refine ⟨hw, hf, ?_⟩
  simpa [openInputs, hrst] using hquiet

/-- Settles O15, by induction on the requests, each an accepted operation clocked to its completion. -/
theorem requestSequenceRefinesAtomicOperations : Obligations.RequestSequenceRefinesAtomicOperations := by
  intro s rs rest hb hready hhost
  obtain ⟨t, u, hops, hrun, ⟨-, hregs, hrsp⟩, hbuild, hrest, hready'⟩ :=
    runEdges_schedule hb hready ⟨rfl, rfl, rfl⟩ hhost
  refine ⟨t, u, hops, hrun, hregs, hrsp, hbuild, hrest, hready', fun hquiet => ⟨hrun, .inl ⟨?_, ?_⟩⟩⟩
  · rw [hhost, List.take_left]
    exact schedule_noReset s.build rs
  · exact runFinished_of_reqReady hready' (hrest ▸ hquiet)

end Sys2Proof.Machine
end

section
/-! The CALC data word a host makes from the sensor's bytes (20_memory.md R42, R43). -/

namespace Sys2Proof.Machine

/-- Two words put together as a number. -/
theorem append_toNat {v w : Nat} (x : BitVec v) (y : BitVec w) : (x ++ y).toNat = x.toNat * 2 ^ w + y.toNat := by
  rw [BitVec.toNat_append, ← Nat.shiftLeft_add_eq_or_of_lt y.isLt, Nat.shiftLeft_eq]

/-- The sensor word as a number: its four bytes, channel 1 above channel 0 (20_memory.md R43). -/
theorem sensorWord_toNat (ch1Msb ch1Lsb ch0Msb ch0Lsb : BitVec 8) :
    (sensorWord ch1Msb ch1Lsb ch0Msb ch0Lsb).toNat =
      (ch1Msb.toNat * 256 + ch1Lsb.toNat) * 2 ^ 16 + (ch0Msb.toNat * 256 + ch0Lsb.toNat) := by
  simp only [sensorWord, append_toNat]
  omega

/-- Settles O8: CALC's channels are the two halves of the data word, and each half is two bytes. -/
theorem sensorBytesGiveTheChannels : Obligations.SensorBytesGiveTheChannels := by
  intro ch1Msb ch1Lsb ch0Msb ch0Lsb
  have hword := sensorWord_toNat ch1Msb ch1Lsb ch0Msb ch0Lsb
  have hch1Msb := ch1Msb.isLt
  have hch1Lsb := ch1Lsb.isLt
  have hch0Msb := ch0Msb.isLt
  have hch0Lsb := ch0Lsb.isLt
  refine ⟨_, _, decode_requestWord _ _, ?_, ?_⟩
  · rw [slice_toNat, hword]
    omega
  · rw [slice_toNat, hword]
    omega

end Sys2Proof.Machine
end

section
/-! What the decoder answers, opcode by opcode and format by format (30_encoding.md R65 to R70). -/

namespace Sys2Proof

/-- The rows of the opcode map: five operations, and the reserved opcodes (30_encoding.md R66). -/
theorem opcode_cases (op : BitVec 3) : op = 0 ∨ op = 1 ∨ op = 2 ∨ op = 3 ∨ op = 4 ∨ 5 ≤ op.toNat := by
  revert op
  decide

/-- The reserved opcodes (30_encoding.md R66, R70). -/
theorem decodeRequest_of_reserved {op : BitVec 3} (h : 5 ≤ op.toNat) (d : Word) : decodeRequest op d = .badOp op := by
  have hop : op = 5 ∨ op = 6 ∨ op = 7 := by revert op; decide
  obtain rfl | rfl | rfl := hop <;> rfl

/-- A selector names the register whose selector it is (30_encoding.md R68). -/
theorem selOfReg_of_regOfSel {sel : BitVec 4} {r : RegName} (h : regOfSel sel = some r) : selOfReg r = sel := by
  cases r <;> revert sel <;> decide

/-- A reserved selector is 9 to 15 (30_encoding.md R68). -/
theorem nine_le_of_regOfSel {sel : BitVec 4} (h : regOfSel sel = none) : 9 ≤ sel.toNat := by
  revert sel
  decide

/-- A field code names the field whose code it is (30_encoding.md R69). -/
theorem codeOfField_of_fieldOfCode {c : BitVec 2} {f : RomField} (h : fieldOfCode c = some f) : codeOfField f = c := by
  cases f <;> revert c <;> decide

/-- The reserved field code is 3 (30_encoding.md R69). -/
theorem eq_three_of_fieldOfCode {c : BitVec 2} (h : fieldOfCode c = none) : c = 3 := by
  revert c
  decide

/-- Opcode 2 reads the register its selector names, or has a reserved selector (30_encoding.md R68). -/
theorem decodeRdreg_cases (d : Word) :
    (∃ r, decodeRdreg d = .rdreg r ∧ selOfReg r = d.extractLsb' 0 4) ∨
    (decodeRdreg d = .badSel (d.extractLsb' 0 4) ∧ 9 ≤ (d.extractLsb' 0 4).toNat) := by
  cases h : regOfSel (d.extractLsb' 0 4) with
  | some r => exact .inl ⟨r, by simp [decodeRdreg, h], selOfReg_of_regOfSel h⟩
  | none => exact .inr ⟨by simp [decodeRdreg, h], nine_le_of_regOfSel h⟩

/-- Opcode 4 reads the ROM field its code names, or has the reserved code (30_encoding.md R69). -/
theorem decodeRdrom_cases (d : Word) :
    (∃ f, decodeRdrom d = .rdrom (tableOfBit (d.getLsbD 3)) (d.extractLsb' 0 3) f ∧
      codeOfField f = d.extractLsb' 4 2) ∨
    (decodeRdrom d = .badFld (tableOfBit (d.getLsbD 3)) (d.extractLsb' 0 3) ∧ d.extractLsb' 4 2 = 3) := by
  cases h : fieldOfCode (d.extractLsb' 4 2) with
  | some f => exact .inl ⟨f, by simp [decodeRdrom, h], codeOfField_of_fieldOfCode h⟩
  | none => exact .inr ⟨by simp [decodeRdrom, h], eq_three_of_fieldOfCode h⟩

/-- The decoder yields only well-formed operations (30_encoding.md R66, R70). -/
theorem decodeRequest_wellFormed (op : BitVec 3) (d : Word) : (decodeRequest op d).wellFormed = true := by
  obtain rfl | rfl | rfl | rfl | rfl | hop := opcode_cases op
  · rfl
  · rfl
  · change (decodeRdreg d).wellFormed = true
    obtain ⟨r, h, -⟩ | ⟨h, hsel⟩ := decodeRdreg_cases d <;> rw [h]
    · rfl
    · exact decide_eq_true hsel
  · rfl
  · change (decodeRdrom d).wellFormed = true
    obtain ⟨f, h, -⟩ | ⟨h, -⟩ := decodeRdrom_cases d <;> rw [h] <;> rfl
  · rw [decodeRequest_of_reserved hop]
    exact decide_eq_true hop

/-- Settles O3, opcode by opcode. -/
theorem decodedInstructionIsWellFormed : Obligations.DecodedInstructionIsWellFormed :=
  fun _ => decodeRequest_wellFormed _ _

/-- Format P: the two halves of the data word (30_encoding.md R65, 20_memory.md R42). -/
theorem decodeCalc_append (ch0 ch1 : Channel) : decodeCalc (ch1 ++ ch0) = .calcLux ch0 ch1 := by
  rw [decodeCalc, BitVec.extractLsb'_append_eq_right, BitVec.extractLsb'_append_eq_left]

/-- The operand word of an operation holds its operands where its format reads them (30_encoding.md R65 to R69). -/
theorem decodeRequest_opOf_dataOf {i : Instr} (h : i.wellFormed = true) : decodeRequest (opOf i) (dataOf i) = i := by
  cases i with
  | nop => rfl
  | wrcfg integ gain =>
    revert integ gain
    decide
  | rdreg r => cases r <;> rfl
  | calcLux ch0 ch1 => exact decodeCalc_append ch0 ch1
  | rdrom t idx f => cases t <;> cases f <;> revert idx <;> decide
  | badOp op => exact decodeRequest_of_reserved (of_decide_eq_true h) 0
  | badSel sel =>
    revert sel
    decide
  | badFld t idx => cases t <;> revert idx <;> decide

/-- Settles O1: the fields of the encoded word are the opcode and the operand word. -/
theorem decodeOfEncodeIsTheInstruction : Obligations.DecodeOfEncodeIsTheInstruction :=
  fun _ h => (decode_requestWord _ _).trans (decodeRequest_opOf_dataOf h)

end Sys2Proof
end

section
/-! What encoding a decoded word gives: the word with the bits its format ignores at 0 (30_encoding.md R65, R70). -/

namespace Sys2Proof

/-- The bits of the data word that the format of an opcode reads (30_encoding.md R65). -/
def usedBits (op : BitVec 3) : Word :=
  if op = 1 then 0x13 else if op = 2 then 0xF else if op = 3 then 0xFFFFFFFF else if op = 4 then 0x3F else 0

/-- Format C reads bits 0, 1 and 4 (30_encoding.md R65). -/
theorem formatC_eq_and (d : Word) :
    0#27 ++ BitVec.ofBool (d.getLsbD 4) ++ 0#2 ++ d.extractLsb' 0 2 = d &&& 0x13 := by
  refine BitVec.eq_of_getLsbD_eq fun i hi => ?_
  rw [BitVec.getLsbD_append, BitVec.getLsbD_append, BitVec.getLsbD_append]
  interval_cases i <;> simp

/-- Format S reads bits 0 to 3 (30_encoding.md R65). -/
theorem formatS_eq_and (d : Word) : 0#28 ++ d.extractLsb' 0 4 = d &&& 0xF := by
  refine BitVec.eq_of_getLsbD_eq fun i hi => ?_
  rw [BitVec.getLsbD_append]
  interval_cases i <;> simp

/-- Format R reads bits 0 to 5 (30_encoding.md R65). -/
theorem formatR_eq_and (d : Word) :
    0#26 ++ d.extractLsb' 4 2 ++ BitVec.ofBool (d.getLsbD 3) ++ d.extractLsb' 0 3 = d &&& 0x3F := by
  refine BitVec.eq_of_getLsbD_eq fun i hi => ?_
  rw [BitVec.getLsbD_append, BitVec.getLsbD_append, BitVec.getLsbD_append]
  interval_cases i <;> simp

/-- Format P reads the whole data word (30_encoding.md R65). -/
theorem formatP_eq_and (d : Word) : d.extractLsb' 16 16 ++ d.extractLsb' 0 16 = d &&& 0xFFFFFFFF := by
  have hstart : 16 = 0 + 16 := rfl
  have happend : d.extractLsb' 16 16 ++ d.extractLsb' 0 16 = d.extractLsb' 0 32 :=
    BitVec.extractLsb'_append_extractLsb'_eq_extractLsb' hstart
  rw [happend, BitVec.extractLsb'_eq_self]
  exact BitVec.and_allOnes.symm

/-- The table bit of the table a bit names (30_encoding.md R69). -/
@[simp] theorem bitOfTable_tableOfBit (t : Bool) : bitOfTable (tableOfBit t) = t := by cases t <;> rfl

/-- A decoded operation has the opcode of its word (30_encoding.md R66). -/
theorem opOf_decodeRequest (op : BitVec 3) (d : Word) : opOf (decodeRequest op d) = op := by
  obtain rfl | rfl | rfl | rfl | rfl | hop := opcode_cases op
  · rfl
  · rfl
  · change opOf (decodeRdreg d) = 2
    obtain ⟨r, h, -⟩ | ⟨h, -⟩ := decodeRdreg_cases d <;> rw [h] <;> rfl
  · rfl
  · change opOf (decodeRdrom d) = 4
    obtain ⟨f, h, -⟩ | ⟨h, -⟩ := decodeRdrom_cases d <;> rw [h] <;> rfl
  · rw [decodeRequest_of_reserved hop, opOf]

/-- The operands of a decoded operation are the bits of the data word that the format reads (30_encoding.md R65). -/
theorem dataOf_decodeRequest (op : BitVec 3) (d : Word) : dataOf (decodeRequest op d) = d &&& usedBits op := by
  obtain rfl | rfl | rfl | rfl | rfl | hop := opcode_cases op
  · exact BitVec.and_zero.symm
  · exact formatC_eq_and d
  · change dataOf (decodeRdreg d) = d &&& 0xF
    obtain ⟨r, h, hsel⟩ | ⟨h, -⟩ := decodeRdreg_cases d
    · rw [h, dataOf, hsel, formatS_eq_and]
    · rw [h, dataOf, formatS_eq_and]
  · exact formatP_eq_and d
  · change dataOf (decodeRdrom d) = d &&& 0x3F
    obtain ⟨f, h, hcode⟩ | ⟨h, hcode⟩ := decodeRdrom_cases d
    · rw [h, dataOf, hcode, bitOfTable_tableOfBit, formatR_eq_and]
    · rw [h, dataOf, bitOfTable_tableOfBit, ← formatR_eq_and, hcode]
      rfl
  · have hused : usedBits op = 0 := by revert op; decide
    rw [decodeRequest_of_reserved hop, hused]
    exact BitVec.and_zero.symm

/-- Encoding the operation of a word gives the word less the bits its format ignores (30_encoding.md R65, R70). -/
theorem encode_decode_requestWord (op : BitVec 3) (d : Word) :
    encode (decode (requestWord op d)) = requestWord op (d &&& usedBits op) := by
  rw [decode_requestWord, encode, opOf_decodeRequest, dataOf_decodeRequest]

/-- The ignored bits do not matter to the decoder (30_encoding.md R70). -/
theorem decode_and_usedBits (op : BitVec 3) (d : Word) :
    decode (requestWord op (d &&& usedBits op)) = decode (requestWord op d) := by
  rw [← encode_decode_requestWord]
  exact decodeOfEncodeIsTheInstruction _ (decodedInstructionIsWellFormed _)

/-- Settles O5: the used bits are the operand word of the decoded operation, and they alone decide it. -/
theorem exactlyTheIgnoredBitsAreIgnored : Obligations.ExactlyTheIgnoredBitsAreIgnored := by
  rintro op d d' _ rfl
  change _ ↔ d &&& usedBits op = d' &&& usedBits op
  constructor
  · intro h
    rw [decode_requestWord, decode_requestWord] at h
    rw [← dataOf_decodeRequest, h, dataOf_decodeRequest]
  · intro h
    rw [← decode_and_usedBits op d, h, decode_and_usedBits]

end Sys2Proof
end

section
/-! Every request word lies in exactly one row of the opcode table (30_encoding.md R66, R70, spec/opcode_table.json). -/

namespace Sys2Proof

/-- A row covers the words with its bits under its mask. -/
theorem OpRow.covers_iff (r : OpRow) (w : ReqWord) : r.covers w = true ↔ w &&& r.mask = r.bits := beq_iff_eq

/-- No two rows share a word: where both masks look, their bits differ. -/
theorem opcodeRows_disjoint : ∀ r ∈ opcodeRows, ∀ r' ∈ opcodeRows, r.bits &&& r'.mask = r'.bits &&& r.mask → r' = r := by
  decide

/-- A word is in at most one row of the table. -/
theorem opcodeRows_unique {r r' : OpRow} (hr : r ∈ opcodeRows) (hr' : r' ∈ opcodeRows) {w : ReqWord}
    (h : r.covers w = true) (h' : r'.covers w = true) : r' = r := by
  rw [OpRow.covers_iff] at h h'
  apply opcodeRows_disjoint r hr r' hr'
  rw [← h, ← h', BitVec.and_assoc, BitVec.and_assoc, BitVec.and_comm r.mask]

/-- Every encoded operation is in a row of its mnemonic. -/
theorem encode_inTable (i : Instr) : Laws.InTable.Statement i := by
  cases i with
  | nop => exact Laws.InTable.nop
  | wrcfg integ gain => exact Laws.InTable.wrcfg integ gain
  | rdreg r => exact Laws.InTable.rdreg r
  | calcLux ch0 ch1 => exact Laws.InTable.calcLux ch0 ch1
  | rdrom t idx f => exact Laws.InTable.rdrom t idx f
  | badOp op => exact Laws.InTable.badOp op
  | badSel sel => exact Laws.InTable.badSel sel
  | badFld t idx => exact Laws.InTable.badFld t idx

/-- A row of an opcode looks at no bit its format ignores. -/
theorem opcodeRows_mask_used : ∀ r ∈ opcodeRows, ∀ op : BitVec 3,
    requestWord op 0 &&& r.mask = r.bits &&& 0x700000000 → requestWord 7 (usedBits op) &&& r.mask = r.mask := by
  decide

/-- The bits a format ignores do not take a word out of a row. -/
theorem covers_of_covers_usedBits {r : OpRow} (hr : r ∈ opcodeRows) {op : BitVec 3} {d : Word}
    (h : r.covers (requestWord op (d &&& usedBits op)) = true) : r.covers (requestWord op d) = true := by
  rw [OpRow.covers_iff] at h ⊢
  have hop : requestWord op 0 &&& r.mask = r.bits &&& 0x700000000 := by
    rw [← h, BitVec.and_assoc, BitVec.and_comm r.mask, ← BitVec.and_assoc, requestWord_opcode_mask]
  have hused : requestWord op (d &&& usedBits op) = requestWord op d &&& requestWord 7 (usedBits op) := by
    have hseven : op &&& 7 = op := BitVec.and_allOnes
    simp only [requestWord]
    rw [BitVec.and_append, hseven]
  rw [← h, hused, BitVec.and_assoc, opcodeRows_mask_used r hr op hop]

/-- Settles O2: the row of the encoded operation covers the word, and the rows are disjoint. -/
theorem everyWordHasOneTableRow : Obligations.EveryWordHasOneTableRow := by
  intro w
  obtain ⟨op, d, rfl⟩ : ∃ op d, w = requestWord op d := ⟨_, _, (requestWord_fields w).symm⟩
  obtain ⟨r, hr, hmnemonic, hcovers⟩ := encode_inTable _ (decodedInstructionIsWellFormed (requestWord op d))
  rw [encode_decode_requestWord] at hcovers
  have hword := covers_of_covers_usedBits hr hcovers
  exact ⟨r, hr, hword, hmnemonic.symm, fun r' hr' h' => opcodeRows_unique hr hr' hword h'⟩

end Sys2Proof
end

section
/-! The opcode map and the operand fields by arithmetic on the word's number (30_encoding.md R65 to R69). -/

namespace Sys2Proof

/-- The opcode of a word as a number (30_encoding.md R65). -/
theorem opField_toNat (w : ReqWord) : (opField w).toNat = w.toNat / 2 ^ 32 := by
  have hw := w.isLt
  rw [opField, slice_toNat]
  omega

/-- The data word of a word as a number (30_encoding.md R65). -/
theorem dataField_toNat (w : ReqWord) : (dataField w).toNat = w.toNat % 2 ^ 32 := by
  rw [dataField, slice_toNat]
  omega

/-- A word decodes by the opcode its number gives (30_encoding.md R66). -/
theorem decode_of_op {w : ReqWord} {op : BitVec 3} (h : w.toNat / 2 ^ 32 = op.toNat) :
    decode w = decodeRequest op (dataField w) := by
  rw [decode, BitVec.eq_of_toNat_eq ((opField_toNat w).trans h)]

/-- The table that a bit names (30_encoding.md R69). -/
theorem tableOfBit_getLsbD_three (d : Word) :
    tableOfBit (d.getLsbD 3) = if d.toNat / 8 % 2 = 0 then .tFnCl else .cs := by
  have hbit : (d.getLsbD 3).toNat = d.toNat / 8 % 2 := bit_toNat d 3
  rw [← hbit]
  cases d.getLsbD 3 <;> rfl

/-- The registers stand in the order of their selectors (30_encoding.md R68). -/
theorem regs_getElem?_selOfReg (r : RegName) :
    [RegName.cfg, .lux, .status, .seg, .sch0, .sch1, .chscale, .ratio, .temp][(selOfReg r).toNat]? = some r := by
  cases r <;> rfl

/-- The ROM fields stand in the order of their codes (30_encoding.md R69). -/
theorem fields_getElem?_codeOfField (f : RomField) :
    [RomField.k, .b, .m][(codeOfField f).toNat]? = some f := by
  cases f <;> rfl

/-- A register's selector is 0 to 8 (30_encoding.md R68). -/
theorem selOfReg_le (r : RegName) : (selOfReg r).toNat ≤ 8 := by cases r <;> decide

/-- A field's code is 0 to 2 (30_encoding.md R69). -/
theorem codeOfField_le (f : RomField) : (codeOfField f).toNat ≤ 2 := by cases f <;> decide

/-- Format S by arithmetic: a selector 0 to 8 (30_encoding.md R68). -/
theorem decodeRdreg_of_le {d : Word} (h : d.toNat % 16 ≤ 8) : ∃ r, decodeRdreg d = .rdreg r ∧
    [RegName.cfg, .lux, .status, .seg, .sch0, .sch1, .chscale, .ratio, .temp][d.toNat % 16]? = some r := by
  have hsel : (d.extractLsb' 0 4).toNat = d.toNat % 16 := by rw [slice_toNat]; omega
  obtain ⟨r, hr, hrsel⟩ | ⟨-, hle⟩ := decodeRdreg_cases d
  · refine ⟨r, hr, ?_⟩
    rw [← hsel, ← hrsel]
    exact regs_getElem?_selOfReg r
  · omega

/-- Format S by arithmetic: a reserved selector (30_encoding.md R68). -/
theorem decodeRdreg_of_nine_le {d : Word} (h : 9 ≤ d.toNat % 16) :
    ∃ sel, decodeRdreg d = .badSel sel ∧ sel.toNat = d.toNat % 16 := by
  have hsel : (d.extractLsb' 0 4).toNat = d.toNat % 16 := by rw [slice_toNat]; omega
  obtain ⟨r, -, hrsel⟩ | ⟨hbad, -⟩ := decodeRdreg_cases d
  · have hle := selOfReg_le r
    rw [hrsel] at hle
    omega
  · exact ⟨_, hbad, hsel⟩

/-- Format R by arithmetic: a field code 0 to 2 (30_encoding.md R69). -/
theorem decodeRdrom_of_le {d : Word} (h : d.toNat / 16 % 4 ≤ 2) :
    ∃ idx f, decodeRdrom d = .rdrom (if d.toNat / 8 % 2 = 0 then .tFnCl else .cs) idx f ∧ idx.toNat = d.toNat % 8 ∧
      [RomField.k, .b, .m][d.toNat / 16 % 4]? = some f := by
  have hcode : (d.extractLsb' 4 2).toNat = d.toNat / 16 % 4 := slice_toNat d 4 2
  have hidx : (d.extractLsb' 0 3).toNat = d.toNat % 8 := by rw [slice_toNat]; omega
  rw [← tableOfBit_getLsbD_three]
  obtain ⟨f, hf, hfcode⟩ | ⟨-, hthree⟩ := decodeRdrom_cases d
  · refine ⟨_, f, hf, hidx, ?_⟩
    rw [← hcode, ← hfcode]
    exact fields_getElem?_codeOfField f
  · rw [← hcode, hthree] at h
    exact absurd h (by decide)

/-- Format R by arithmetic: the reserved field code 3 (30_encoding.md R69). -/
theorem decodeRdrom_of_eq_three {d : Word} (h : d.toNat / 16 % 4 = 3) :
    ∃ idx, decodeRdrom d = .badFld (if d.toNat / 8 % 2 = 0 then .tFnCl else .cs) idx ∧ idx.toNat = d.toNat % 8 := by
  have hcode : (d.extractLsb' 4 2).toNat = d.toNat / 16 % 4 := slice_toNat d 4 2
  have hidx : (d.extractLsb' 0 3).toNat = d.toNat % 8 := by rw [slice_toNat]; omega
  rw [← tableOfBit_getLsbD_three]
  obtain ⟨f, -, hfcode⟩ | ⟨hbad, -⟩ := decodeRdrom_cases d
  · have hle := codeOfField_le f
    rw [hfcode] at hle
    omega
  · exact ⟨_, hbad, hidx⟩

/-- Settles O4, opcode by opcode. -/
theorem opcodeMapAndOperandFields : Obligations.OpcodeMapAndOperandFields := by
  rintro w _ rfl
  rw [← dataField_toNat]
  refine ⟨decode_of_op (op := 0), fun h => ?_, fun h hsel => ?_, fun h hsel => ?_, fun h => ?_, fun h hcode => ?_,
    fun h hcode => ?_, fun h => ?_⟩
  · refine ⟨_, _, decode_of_op (op := 1) h, ?_, bit_toNat (dataField w) 4⟩
    rw [slice_toNat]
    omega
  · rw [decode_of_op (op := 2) h]
    exact decodeRdreg_of_le hsel
  · rw [decode_of_op (op := 2) h]
    exact decodeRdreg_of_nine_le hsel
  · have hd := (dataField w).isLt
    refine ⟨_, _, decode_of_op (op := 3) h, ?_, ?_⟩
    · rw [slice_toNat]
      omega
    · rw [slice_toNat]
      omega
  · rw [decode_of_op (op := 4) h]
    exact decodeRdrom_of_le hcode
  · rw [decode_of_op (op := 4) h]
    exact decodeRdrom_of_eq_three hcode
  · rw [← opField_toNat] at h ⊢
    exact ⟨_, decodeRequest_of_reserved h _, rfl⟩

/-- Settles O6: each word is evaluated. -/
theorem writtenOutWordsDecode : Obligations.WrittenOutWordsDecode :=
  ⟨by decide, by decide, by decide, by decide, by decide, by decide, by decide, by decide, by decide⟩

end Sys2Proof
end

section
/-! The assembler: the request of each line of 30_encoding.md R72, as opcode and data number. -/

namespace Sys2Proof.Machine

/-- The request of an operation asks for it. -/
theorem requestOf_instr {i : Instr} (h : i.wellFormed = true) : (requestOf i).instr = i :=
  decodeOfEncodeIsTheInstruction i h

/-! The operand words as numbers (30_encoding.md R65 to R69). -/

theorem dataOf_wrcfg_toNat (integ : BitVec 2) (gain : Bool) :
    (dataOf (.wrcfg integ gain)).toNat = gainValue gain + integ.toNat := by
  revert integ gain
  decide

theorem dataOf_rdreg_toNat (r : RegName) : (dataOf (.rdreg r)).toNat = (selOfReg r).toNat := by cases r <;> rfl

theorem dataOf_calcLux_toNat (ch0 ch1 : Channel) :
    (dataOf (.calcLux ch0 ch1)).toNat = ch1.toNat * 65536 + ch0.toNat := append_toNat ch1 ch0

theorem dataOf_rdrom_toNat (t : Package) (idx : BitVec 3) (f : RomField) :
    (dataOf (.rdrom t idx f)).toNat =
      (if f = .k then 0 else if f = .b then 1 else 2) * 16 + (if t = .tFnCl then 0 else 1) * 8 + idx.toNat := by
  cases t <;> cases f <;> revert idx <;> decide

/-! The operands R72 lists. -/

/-- The gain values are 0 and 16 (10_state.md R25). -/
theorem gainBit_eq_some_iff (gain : Nat) (g : Bool) : gainBit gain = some g ↔ gain = gainValue g := by
  unfold gainBit
  split <;> cases g <;> simp_all [gainValue]

theorem exists_gainBit_iff (gain : Nat) : (∃ g, gainBit gain = some g) ↔ gain = 0 ∨ gain = 16 := by
  simp [gainBit_eq_some_iff, gainValue]

/-- The integration times have the codes 0, 1 and 2 (10_state.md R24). -/
theorem timingCode_eq_some_iff (tint : Nat) (c : BitVec 2) : timingCode tint = some c ↔
    (tint = 13 ∨ tint = 101 ∨ tint = 402) ∧ c.toNat = (if tint = 13 then 0 else if tint = 101 then 1 else 2) := by
  by_cases h13 : tint = 13
  · simp [timingCode, h13, ← BitVec.toNat_inj, eq_comm]
  by_cases h101 : tint = 101
  · simp [timingCode, h101, ← BitVec.toNat_inj, eq_comm]
  by_cases h402 : tint = 402
  · simp [timingCode, h402, ← BitVec.toNat_inj, eq_comm]
  · simp [timingCode, h13, h101, h402]

theorem exists_timingCode_iff (tint : Nat) :
    (∃ c, timingCode tint = some c) ↔ tint = 13 ∨ tint = 101 ∨ tint = 402 := by
  have hcode : (if tint = 13 then 0 else if tint = 101 then 1 else 2) < 2 ^ 2 := by split_ifs <;> decide
  simp only [timingCode_eq_some_iff, exists_and_left]
  exact and_iff_left ⟨_, toNat_ofNat_of_lt hcode⟩

/-- A WRCFG line with fields assembles exactly when its gain and time are listed ones. -/
theorem assemble_wrcfg_eq_some_iff (gain tint : Nat) (r : Request) : assemble (.wrcfg gain tint) = some r ↔
    ∃ g c, gainBit gain = some g ∧ timingCode tint = some c ∧ requestOf (.wrcfg c g) = r := by
  simp only [assemble, Option.bind_eq_some_iff, Option.map_eq_some_iff, exists_and_left]

theorem word32_of_lt {n : Nat} (h : n < 2 ^ 32) : word32 n = some (BitVec.ofNat 32 n) := if_pos h

theorem word32_of_le {n : Nat} (h : 2 ^ 32 ≤ n) : word32 n = none := if_neg h.not_gt

/-- An opcode below 8 and a word below 2^32 assemble to themselves (30_encoding.md R72). -/
theorem assemble_req_of_lt {op imm : Nat} (hop : op < 8) (himm : imm < 2 ^ 32) :
    assemble (.req op imm) = some ⟨BitVec.ofNat 3 op, BitVec.ofNat 32 imm⟩ := by
  simp only [assemble, if_pos hop, word32_of_lt himm, Option.map_some]

theorem assemble_req_of_le {op imm : Nat} (h : 8 ≤ op ∨ 2 ^ 32 ≤ imm) : assemble (.req op imm) = none := by
  obtain hop | himm := h
  · rw [assemble, if_neg hop.not_gt]
  · simp only [assemble, word32_of_le himm, Option.map_none, ite_self]

theorem assemble_calcChannels_of_lt {ch0 ch1 : Nat} (h0 : ch0 < 65536) (h1 : ch1 < 65536) :
    assemble (.calcChannels ch0 ch1) = some (requestOf (.calcLux (BitVec.ofNat 16 ch0) (BitVec.ofNat 16 ch1))) :=
  if_pos ⟨h0, h1⟩

theorem assemble_calcChannels_of_le {ch0 ch1 : Nat} (h : 65536 ≤ ch0 ∨ 65536 ≤ ch1) :
    assemble (.calcChannels ch0 ch1) = none :=
  if_neg (by omega)

theorem assemble_rdrom_of_mem (t : Package) {e : Nat} (f : RomField) (h1 : 1 ≤ e) (h8 : e ≤ 8) :
    assemble (.rdrom t e f) = some (requestOf (.rdrom t (BitVec.ofNat 3 (e - 1)) f)) :=
  if_pos ⟨h1, h8⟩

theorem assemble_rdrom_of_not_mem (t : Package) {e : Nat} (f : RomField) (h : e = 0 ∨ 9 ≤ e) :
    assemble (.rdrom t e f) = none :=
  if_neg (by omega)

/-- A WRCFG line assembles for the six listed operand pairs only (30_encoding.md R72). -/
theorem assemble_wrcfg_isSome_iff (gain tint : Nat) : (∃ r, assemble (.wrcfg gain tint) = some r) ↔
    (gain = 0 ∨ gain = 16) ∧ (tint = 13 ∨ tint = 101 ∨ tint = 402) := by
  simp only [assemble_wrcfg_eq_some_iff, ← exists_gainBit_iff, ← exists_timingCode_iff]
  constructor
  · rintro ⟨_, g, c, hg, hc, -⟩
    exact ⟨⟨g, hg⟩, c, hc⟩
  · rintro ⟨⟨g, hg⟩, c, hc⟩
    exact ⟨_, g, c, hg, hc, rfl⟩

/-- Settles O7, line by line. -/
theorem assembledLinesDecode : Obligations.AssembledLinesDecode := by
  refine ⟨⟨rfl, requestOf_instr (i := .nop) rfl⟩, assemble_wrcfg_isSome_iff, fun gain tint r h => ?_, fun n => ?_,
    fun ch0 ch1 h0 h1 => ?_, fun _ _ => assemble_calcChannels_of_le, fun t e f h1 h8 => ?_,
    fun t _ f => assemble_rdrom_of_not_mem t f, fun imm h => ?_, fun imm h => ?_, fun op imm hop himm => ?_,
    fun _ _ => assemble_req_of_le, fun _ => ⟨rfl, rfl⟩⟩
  · obtain ⟨g, c, hg, hc, rfl⟩ := (assemble_wrcfg_eq_some_iff gain tint r).1 h
    have hgain := (gainBit_eq_some_iff gain g).1 hg
    obtain ⟨-, hcode⟩ := (timingCode_eq_some_iff tint c).1 hc
    refine ⟨rfl, ?_, c, g, requestOf_instr rfl, hgain.symm, hcode⟩
    rw [hgain, ← hcode]
    exact dataOf_wrcfg_toNat c g
  · refine ⟨_, rfl, rfl, requestOf_instr rfl, ?_⟩
    rw [requestOf, dataOf_rdreg_toNat]
    exact regs_getElem?_selOfReg n
  · refine ⟨_, assemble_calcChannels_of_lt h0 h1, rfl, ?_, requestOf_instr rfl⟩
    rw [requestOf, dataOf_calcLux_toNat, toNat_ofNat_of_lt h1, toNat_ofNat_of_lt h0]
  · have hidx : (BitVec.ofNat 3 (e - 1)).toNat = e - 1 := toNat_ofNat_of_lt (by omega)
    refine ⟨_, _, assemble_rdrom_of_mem t f h1 h8, rfl, ?_, requestOf_instr rfl, ?_⟩
    · rw [requestOf, dataOf_rdrom_toNat, hidx]
    · change (BitVec.ofNat 3 (e - 1)).toNat + 1 = e
      omega
  · refine ⟨BitVec.ofNat 32 imm, toNat_ofNat_of_lt h, ?_, ?_, ?_, ?_⟩ <;>
      simp only [assemble, word32_of_lt h, Option.map_some]
  · refine ⟨?_, ?_, ?_, ?_⟩ <;> simp only [assemble, word32_of_le h, Option.map_none]
  · exact ⟨_, assemble_req_of_lt hop himm, toNat_ofNat_of_lt hop, toNat_ofNat_of_lt himm⟩

end Sys2Proof.Machine
end

section
/-! SETGAIN and SETTIMING: two operations that write one field of CFG (30_encoding.md R73). -/

namespace Sys2Proof.Machine

/-- The second request of SETGAIN writes back INTEG as it was read, and the given GAIN. -/
theorem setGainRequest_instr (gain : Bool) (p : Package) (c : Cfg) :
    (setGainRequest gain (cfgWord p c)).instr = .wrcfg c.integ gain := by
  obtain ⟨integ, gain'⟩ := c
  cases p <;> revert gain integ gain' <;> decide

/-- The second request of SETTIMING writes back GAIN as it was read, and the given INTEG. -/
theorem setTimingRequest_instr (code : BitVec 2) (p : Package) (c : Cfg) :
    (setTimingRequest code (cfgWord p c)).instr = .wrcfg code c.gain := by
  obtain ⟨integ, gain⟩ := c
  cases p <;> revert code integ gain <;> decide

/-- Reading CFG and then writing it: the state with the new CFG, which is the response. -/
theorem readModifyCfg_eq {f : Word → Request} {s : State} {integ : BitVec 2} {gain : Bool}
    (hf : (f (cfgWord s.build.package s.regs.cfg)).instr = .wrcfg integ gain) :
    readModifyCfg f s = .next (respond false (cfgWord s.build.package ⟨integ, gain⟩) (writeCfg integ gain s)) := by
  have hread : operate (requestOf (.rdreg .cfg)) s = .next (respond false (readReg s .cfg) s) := by
    rw [operate, requestOf_instr rfl, exec_rdreg]
  rw [readModifyCfg, hread]
  change exec (f (cfgWord s.build.package s.regs.cfg)).instr _ = _
  rw [hf]
  rfl

/-- Settles O35: what the second request writes is the field given and the field read. -/
theorem settersKeepTheOtherField : Obligations.SettersKeepTheOtherField :=
  ⟨fun g s => ⟨_, readModifyCfg_eq (setGainRequest_instr g s.build.package s.regs.cfg), rfl, rfl⟩,
   fun c s => ⟨_, readModifyCfg_eq (setTimingRequest_instr c s.build.package s.regs.cfg), rfl, rfl⟩⟩

end Sys2Proof.Machine
end

section
/-! One edge on the port: what an unaccepted request leaves, acceptance, and the response of a cycle
(30_encoding.md R61 to R63). -/

namespace Sys2Proof.Machine

/-- With nothing accepted an idle edge only passes (30_encoding.md R62). -/
theorem idleEdge_of_unaccepted {p : PortIn} {s : State} (h : reqReady s = false ∨ p.reqValid = false) :
    idleEdge p s = .next (tick s) := by
  obtain h | h := h <;> simp [idleEdge, h]

/-- Without an acceptance an edge depends on `rst` alone of the port's inputs (30_encoding.md R62). -/
theorem edge_congr_of_unaccepted {p q : PortIn} {s : State} (hw : s.wasReset = true) (hrst : p.rst = q.rst)
    (hp : reqReady s = false ∨ p.reqValid = false) (hq : reqReady s = false ∨ q.reqValid = false) :
    edge p s = edge q s := by
  cases hr : q.rst with
  | true => simp [edge, hrst, hr]
  | false =>
    rw [hr] at hrst
    cases hf : s.inflight with
    | some f => rw [edge_of_inflight hrst hw hf, edge_of_inflight hr hw hf]
    | none => rw [edge_of_idle hrst hw hf, edge_of_idle hr hw hf, idleEdge_of_unaccepted hp, idleEdge_of_unaccepted hq]

/-- A step with the host's next input in view: the edge with that input, if the build is legal. -/
theorem step_with_host_cons (s : State) (p : PortIn) (rest : List PortIn) :
    step { s with host := p :: rest } =
      if buildLegal s.build then edge p { s with host := rest } else .refused .illegalBuild := rfl

/-- Settles O12: the edge accepts nothing either way. -/
theorem unacceptedRequestHasNoEffect : Obligations.UnacceptedRequestHasNoEffect := by
  intro s p rest op data hw hhost h
  have hs : s = { s with host := p :: rest } := by rw [← hhost]
  have hedge : edge p { s with host := rest } = edge ⟨p.rst, false, op, data⟩ { s with host := rest } :=
    edge_congr_of_unaccepted hw rfl h (.inr rfl)
  calc step s
    _ = step { s with host := p :: rest } := congrArg step hs
    _ = step { s with host := ⟨p.rst, false, op, data⟩ :: rest } := by
      rw [step_with_host_cons, hedge, step_with_host_cons]

/-- Settles O11: the block is the one that has just accepted the request. -/
theorem readyBlockAcceptsOfferedRequest : Obligations.ReadyBlockAcceptsOfferedRequest := by
  rintro s ⟨_, _, op, data⟩ rest hb hready hhost rfl rfl
  have hoff : nextInput s = offer ⟨op, data⟩ := by
    rw [nextInput, hhost]
    rfl
  refine ⟨_, step_accept hb hready hoff, by simp [reqReady, waiting], rfl, rfl, ?_, rfl, rfl⟩
  rw [waiting, hhost]
  rfl

/-- The outputs in a cycle with a response (30_encoding.md R63). -/
theorem pins_of_rsp {s : State} {r : Response} (h : s.rsp = some r) : pins s = ⟨readyPin s, true, r.err, r.data⟩ := by
  rw [pins, h]

/-- Settles O49: the outputs read the response and the readiness of the block. -/
theorem pinsShowTheRegisteredPort : Obligations.PinsShowTheRegisteredPort := by
  refine fun s => ⟨fun r hr => ?_, fun hr => ?_, fun hw => ?_⟩
  · rw [pins_of_rsp hr]
    exact ⟨rfl, rfl, rfl⟩
  · rw [pins_rspValid, hr]
    rfl
  · rw [pins_reqReady, readyPin_of_wasReset hw, reqReady_iff]
    exact and_iff_right hw

/-- An edge with nothing in flight ends the response: it resets, accepts or passes (30_encoding.md R63). -/
theorem edge_rsp_of_idle {p : PortIn} {s : State} (hw : s.wasReset = true) (hf : s.inflight = none) :
    ∃ t, edge p s = .next t ∧ t.rsp = none := by
  obtain ⟨-, he⟩ | ⟨-, hw', -⟩ | ⟨-, -, f, hf', -⟩ | ⟨-, -, f, hf', -⟩ | ⟨-, -, -, -, he⟩ | ⟨-, -, -, -, he⟩ :=
    edge_cases p s
  · exact ⟨_, he, rfl⟩
  · cases hw'.symm.trans hw
  · cases hf'.symm.trans hf
  · cases hf'.symm.trans hf
  · exact ⟨_, he, rfl⟩
  · exact ⟨_, he, rfl⟩

/-- Settles O16: beside a response the slot is empty, so the next edge completes nothing. -/
theorem responseLastsOneCycle : Obligations.ResponseLastsOneCycle := by
  intro s r h hr
  have hf : s.inflight = none := by
    cases hslot : s.inflight with
    | none => rfl
    | some f =>
      obtain ⟨hquiet, -⟩ := h.slot_quiet f hslot
      cases hquiet.symm.trans hr
  obtain ⟨t, ht, hrsp⟩ := edge_rsp_of_idle (p := nextInput s) (s := takeInput s) h.was_reset hf
  obtain ⟨hvalid, herr, hdata⟩ := (pinsShowTheRegisteredPort s).1 r hr
  exact ⟨hvalid, herr, hdata, t, (step_legal h.build_legal).trans ht, hrsp, (pinsShowTheRegisteredPort t).2.1 hrsp⟩

end Sys2Proof.Machine
end

section
/-! NOP and RDREG: the response of an operation that only reads, by the data word (40_access_ops.md R80, R84). -/

namespace Sys2Proof.Machine

/-- Settles O29: NOP is the response (0, 0) and nothing else. -/
theorem nopOnlyResponds : Obligations.NopOnlyResponds :=
  fun data s => ⟨decode_requestWord 0 data, rfl, _, exec_nop s, rfl, rfl⟩

/-- Settles O32, by the selector: 0 to 8, or reserved. -/
theorem rdregRespondsSelectedRegister : Obligations.RdregRespondsSelectedRegister := by
  rintro data s _ rfl
  refine ⟨fun r hr => ?_, fun hsel => ?_⟩
  · have hsel : data.toNat % 16 < 9 := (List.getElem?_eq_some_iff.1 hr).1
    obtain ⟨r', hdec, hr'⟩ := decodeRdreg_of_le (Nat.le_of_lt_succ hsel)
    obtain rfl := Option.some.inj (hr'.symm.trans hr)
    exact ⟨(decode_requestWord 2 data).trans hdec, _, exec_rdreg r' s, rfl, rfl⟩
  · obtain ⟨sel, hdec, -⟩ := decodeRdreg_of_nine_le hsel
    have hword : decode (requestWord 2 data) = .badSel sel := (decode_requestWord 2 data).trans hdec
    rw [hword]
    exact ⟨_, exec_badSel sel s, rfl, rfl, rfl⟩

end Sys2Proof.Machine
end

section
/-! RDROM by its data word: the table, the entry and the field (40_access_ops.md R86). -/

namespace Sys2Proof.Machine

/-- The words of an entry stand in the order of their fields (20_memory.md R45). -/
theorem entryField_of_getElem? {x : RomEntry} {n : Nat} {f : RomField} {v : RomWord}
    (hf : [RomField.k, .b, .m][n]? = some f) (hv : [x.k, x.b, x.m][n]? = some v) : entryField x f = v := by
  have hmap : ([RomField.k, .b, .m].map (entryField x))[n]? = some v := hv
  rw [List.getElem?_map, hf] at hmap
  exact Option.some.inj hmap

/-- A ROM word is the field of the entry its table holds at the index (20_memory.md R45). -/
theorem romRead_of_getElem? {rom : BpRom} {t : Package} {idx : BitVec 3} {x : RomEntry}
    (h : (romTable rom t)[idx.toNat]? = some x) (f : RomField) : romRead rom t idx.toFin f = entryField x f := by
  obtain ⟨_, hx⟩ := Vector.getElem?_eq_some_iff.1 h
  exact congrArg (entryField · f) hx

/-- Settles O33, by the field code: 0 to 2, or 3. -/
theorem rdromRespondsRomWord : Obligations.RdromRespondsRomWord := by
  rintro data s x _ rfl hx
  refine ⟨fun v hv => ?_, fun hcode => ?_⟩
  · have hcode : data.toNat / 16 % 4 < 3 := (List.getElem?_eq_some_iff.1 hv).1
    obtain ⟨idx, f, hdec, hidx, hf⟩ := decodeRdrom_of_le (Nat.le_of_lt_succ hcode)
    have htable : (if data.toNat / 8 % 2 = 0 then s.build.rom.tFnCl else s.build.rom.cs) =
        romTable s.build.rom (if data.toNat / 8 % 2 = 0 then .tFnCl else .cs) := by
      split <;> rfl
    rw [htable, ← hidx] at hx
    refine ⟨_, idx, f, _, (decode_requestWord 4 data).trans hdec, exec_rdrom _ idx f s, ?_, rfl⟩
    rw [respond_rsp, romRead_of_getElem? hx, entryField_of_getElem? hf hv]
  · obtain ⟨idx, hdec, -⟩ := decodeRdrom_of_eq_three hcode
    have hword : decode (requestWord 4 data) = .badFld _ idx := (decode_requestWord 4 data).trans hdec
    rw [hword]
    exact ⟨_, exec_badFld _ idx s, rfl, rfl, rfl⟩

end Sys2Proof.Machine
end

section
/-! WRCFG, and what it wrote through the requests that follow (40_access_ops.md R82, R83). -/

namespace Sys2Proof.Machine

/-- A request of another opcode is no WRCFG (30_encoding.md R66). -/
theorem Request.instr_ne_wrcfg {r : Request} (h : r.op ≠ 1) (integ : BitVec 2) (gain : Bool) :
    r.instr ≠ .wrcfg integ gain := by
  intro hinstr
  have hop : opOf r.instr = r.op := by rw [Request.instr, decode_requestWord, opOf_decodeRequest]
  exact h (by rw [← hop, hinstr, opOf])

/-- Requests without a WRCFG keep CFG, and no request changes the build (10_state.md R23, 20_memory.md R41). -/
theorem operateAll_keeps_cfg {rs : List Request} (h : ∀ r ∈ rs, r.op ≠ 1) (s : State) :
    ∃ u, operateAll rs s = .next u ∧ u.build = s.build ∧ u.regs.cfg = s.regs.cfg := by
  induction rs generalizing s with
  | nil => exact ⟨s, rfl, rfl, rfl⟩
  | cons r rs ih =>
    obtain ⟨hr, hrs⟩ := List.forall_mem_cons.1 h
    obtain ⟨g, rsp, heff, hx⟩ := exec_opEffect r.instr s
    obtain ⟨u, hu, hbuild, hcfg⟩ := ih hrs { s with regs := g, rsp := some rsp }
    refine ⟨u, ?_, hbuild, hcfg.trans (heff.cfg_eq (Request.instr_ne_wrcfg hr))⟩
    simp only [operateAll, operate, hx, hu]

/-- With GAIN = 0 chScale, and so each scaled channel, is 0 (41_lux_calc.md R119). -/
theorem scaled_of_gain_false {c : Cfg} (h : c.gain = false) (ch : Channel) : scaled ch (chScale c) = 0 := by
  simp [scaled, chScale, gainValue, h]

/-- With GAIN = 0 lux is 0 (41_lux_calc.md R119). -/
theorem luxCalc_lux_of_gain_false {c : Cfg} (h : c.gain = false) (b : Build) (ch0 ch1 : Channel) :
    (luxCalc b c ch0 ch1).lux = 0 := by
  have hsc0 : (luxCalc b c ch0 ch1).sc0 = 0 := scaled_of_gain_false h ch0
  rw [luxCalc_lux, luxCalc_tc, hsc0]
  simp

/-- Through requests without a WRCFG the gain stays 0, so a CALC after them responds 0 (40_access_ops.md R82). -/
theorem calcLux_after_operateAll_of_gain_false {t : State} (hgain : t.regs.cfg.gain = false) {rs : List Request}
    (hrs : ∀ r ∈ rs, r.op ≠ 1) (ch0 ch1 : Channel) :
    ∃ u v, operateAll rs t = .next u ∧ exec (.calcLux ch0 ch1) u = .next v ∧ v.rsp = some ⟨false, 0⟩ := by
  obtain ⟨u, hu, -, hcfg⟩ := operateAll_keeps_cfg hrs t
  refine ⟨u, _, hu, exec_calcLux ch0 ch1 u, ?_⟩
  rw [respond_rsp, luxCalc_lux_of_gain_false (hcfg ▸ hgain)]
  rfl

/-- The CFG word is the operand word that writes it, with PKG beside (10_state.md R23, R27). -/
theorem cfgWord_eq_or (p : Package) (integ : BitVec 2) (gain : Bool) :
    cfgWord p ⟨integ, gain⟩ = dataOf (.wrcfg integ gain) ||| (if p = .cs then 0x100 else 0) := by
  cases p <;> revert integ gain <;> decide

/-- Settles O30: the new CFG word is the used bits of the data with PKG, and CFG stays as written until the next
WRCFG. -/
theorem wrcfgWritesAndRespondsCfg : Obligations.WrcfgWritesAndRespondsCfg := by
  intro data s
  have hused : dataOf (.wrcfg (data.extractLsb' 0 2) (data.getLsbD 4)) = data &&& 0x13 := formatC_eq_and data
  refine ⟨data.extractLsb' 0 2, data.getLsbD 4, _, _, decode_requestWord 1 data, exec_wrcfg _ _ s, ?_,
    bit_toNat data 4, ?_, rfl, rfl, rfl, rfl,
    fun hgain _ ch0 ch1 hrs => calcLux_after_operateAll_of_gain_false hgain hrs ch0 ch1⟩
  · rw [slice_toNat]
    omega
  · rw [cfgWord_eq_or, hused]

/-- Settles O31: WRCFG responds the CFG word, and neither CFG nor PACKAGE changes on the way. -/
theorem wrcfgReadsBack : Obligations.WrcfgReadsBack := by
  intro data s rs hrs
  rw [decode_requestWord]
  obtain ⟨u, hu, hbuild, hcfg⟩ := operateAll_keeps_cfg hrs _
  refine ⟨_, u, _, exec_wrcfg (data.extractLsb' 0 2) (data.getLsbD 4) s, hu, exec_rdreg .cfg u, ?_, by simp⟩
  rw [respond_rsp, readReg, hbuild, hcfg]
  rfl

end Sys2Proof.Machine
end

section
/-! RDROM after CALC: the entry SEG names is the one CALC selected, and its words are those CALC used
(40_access_ops.md R87). -/

namespace Sys2Proof.Machine

/-- The entry that SEG names has `K ≥ ratio`, and gives the coefficients (41_lux_calc.md R110). -/
theorem selectEntry_of_seg {rom : BpRom} {t : Package} {ratio : Nat} {e : Fin 8}
    (h : (selectEntry rom t ratio).seg = entryNumber e) : ratio ≤ (romRead rom t e .k).toNat ∧
      selectEntry rom t ratio = ⟨entryNumber e, (romRead rom t e .b).toNat, (romRead rom t e .m).toNat⟩ := by
  obtain ⟨e', hk, -, heq⟩ | ⟨-, heq⟩ := selectEntry_cases rom t ratio
  · rw [heq] at h
    obtain rfl : e' = e := Fin.ext (Nat.succ.inj h)
    exact ⟨hk, heq⟩
  · rw [heq] at h
    exact absurd h.symm (Nat.succ_ne_zero e.val)

/-- An entry before the one SEG names has `K < ratio` (41_lux_calc.md R110). -/
theorem romRead_k_lt_of_lt_seg {rom : BpRom} {t : Package} {ratio : Nat} {e : Fin 8}
    (h : entryNumber e < (selectEntry rom t ratio).seg) : (romRead rom t e .k).toNat < ratio := by
  obtain ⟨e', -, hlt, heq⟩ | ⟨hlt, -⟩ := selectEntry_cases rom t ratio
  · rw [heq] at h
    exact hlt e (Nat.lt_of_succ_lt_succ h)
  · exact hlt e

/-- TEMP from the coefficients of the selected entry, cut off at 0 (41_lux_calc.md R113). -/
theorem luxCalc_tc_eq_max (b : Build) (c : Cfg) (ch0 ch1 : Channel) : ((luxCalc b c ch0 ch1).tc : Int) =
    max (tempOf (luxCalc b c ch0 ch1).sc0 (luxCalc b c ch0 ch1).sc1
      (selectEntry b.rom b.package (luxCalc b c ch0 ch1).ratio)) 0 :=
  Int.ofNat_toNat _

/-- SEG is what the scan for RATIO found (41_lux_calc.md R110). -/
theorem luxCalc_seg (b : Build) (c : Cfg) (ch0 ch1 : Channel) : (luxCalc b c ch0 ch1).seg =
    (selectEntry b.rom b.package (luxCalc b c ch0 ch1).ratio).seg := rfl

/-- CALC stores SEG, RATIO, SCH0, SCH1 and TEMP whole, as each fits its register (41_lux_calc.md R116, R118). -/
theorem commitCalc_luxCalc_toNat {s : State} (hb : romLegal s.build.rom) (c : Cfg) (ch0 ch1 : Channel) :
    (commitCalc (luxCalc s.build c ch0 ch1) s).regs.seg.toNat = (luxCalc s.build c ch0 ch1).seg ∧
      (commitCalc (luxCalc s.build c ch0 ch1) s).regs.ratio.toNat = (luxCalc s.build c ch0 ch1).ratio ∧
      (commitCalc (luxCalc s.build c ch0 ch1) s).regs.sch0.toNat = (luxCalc s.build c ch0 ch1).sc0 ∧
      (commitCalc (luxCalc s.build c ch0 ch1) s).regs.sch1.toNat = (luxCalc s.build c ch0 ch1).sc1 ∧
      (commitCalc (luxCalc s.build c ch0 ch1) s).regs.temp.toNat = (luxCalc s.build c ch0 ch1).tc := by
  have hseg := luxCalc_seg_le c ch0 ch1 hb
  have hratio := luxCalc_ratio_le s.build c ch0 ch1
  have hsc0 := luxCalc_sc0_le s.build c ch0 ch1
  have hsc1 := luxCalc_sc1_le s.build c ch0 ch1
  have htc := luxCalc_tc_le c ch0 ch1 hb
  exact ⟨toNat_ofNat_of_lt (by omega), toNat_ofNat_of_lt (by omega), toNat_ofNat_of_lt (by omega),
    toNat_ofNat_of_lt (by omega), toNat_ofNat_of_lt (by omega)⟩

/-- A ROM word zero-extended is the same number (40_access_ops.md R86). -/
theorem romWord_setWidth_toNat (w : RomWord) : (w.setWidth 32).toNat = w.toNat :=
  BitVec.toNat_setWidth_of_le (by decide)

/-- Settles O34: the registers hold what the scan of PACKAGE's table gave, and RDROM reads the same table. -/
theorem rdromReturnsWhatCalcRead : Obligations.RdromReturnsWhatCalcRead := by
  intro s ch0 ch1 hb
  obtain ⟨hseg, hratio, hsc0, hsc1, htemp⟩ := commitCalc_luxCalc_toNat hb.1 s.regs.cfg ch0 ch1
  rw [luxCalc_seg] at hseg
  refine ⟨_, exec_calcLux ch0 ch1 s, fun idx _ => ⟨_, _, _, _, _, _, exec_rdrom _ _ _ _, rfl, exec_rdrom _ _ _ _, rfl,
    exec_rdrom _ _ _ _, rfl, ?_⟩⟩
  simp only [respond_regs, respond_build, commitCalc_build, romWord_setWidth_toNat, hseg, hratio, hsc0, hsc1, htemp]
  refine ⟨fun hsel => ?_, fun hearlier => romRead_k_lt_of_lt_seg (e := idx.toFin) hearlier⟩
  obtain ⟨hk, heq⟩ := selectEntry_of_seg (e := idx.toFin) hsel
  refine ⟨hk, ?_⟩
  rw [luxCalc_tc_eq_max, tempOf, heq]

end Sys2Proof.Machine
end

section
/-! What the scan selects, from the K words alone, and what leaves the selection as it is (41_lux_calc.md R109 to
R112). -/

namespace Sys2Proof.Machine

variable {rom rom' : BpRom} {t : Package} {ratio : Nat}

/-- The first entry with `K ≥ ratio` is the selected one (41_lux_calc.md R110). -/
theorem selectEntry_eq_of_first {e : Fin 8} (hk : ratio ≤ (romRead rom t e .k).toNat)
    (hlt : ∀ d < e, (romRead rom t d .k).toNat < ratio) :
    selectEntry rom t ratio = ⟨entryNumber e, (romRead rom t e .b).toNat, (romRead rom t e .m).toNat⟩ := by
  obtain ⟨e', hk', hlt', heq⟩ | ⟨hall, -⟩ := selectEntry_cases rom t ratio
  · rcases lt_trichotomy e e' with h | rfl | h
    · exact absurd hk (hlt' e h).not_ge
    · exact heq
    · exact absurd hk' (hlt e' h).not_ge
  · exact absurd hk (hall e).not_ge

/-- A ratio above every K selects nothing (41_lux_calc.md R111). -/
theorem selectEntry_eq_of_all_lt (hall : ∀ d, (romRead rom t d .k).toNat < ratio) :
    selectEntry rom t ratio = ⟨0, 0, 0⟩ := by
  obtain ⟨e, hk, -, -⟩ | ⟨-, heq⟩ := selectEntry_cases rom t ratio
  · exact absurd hk (hall e).not_ge
  · exact heq

/-- A ratio of 0 selects entry 1, with any ROM (41_lux_calc.md R120). -/
theorem selectEntry_zero (rom : BpRom) (t : Package) :
    selectEntry rom t 0 = ⟨1, (romRead rom t 0 .b).toNat, (romRead rom t 0 .m).toNat⟩ :=
  selectEntry_eq_of_first (Nat.zero_le _) fun d hd => absurd hd (Fin.not_lt_zero d)

/-- A ROM with the same K words, and the same B and M in the selected entry, gives the same selection
(41_lux_calc.md R109, R112). -/
theorem selectEntry_congr (hk : ∀ e, romRead rom' t e .k = romRead rom t e .k)
    (hbm : ∀ e, entryNumber e = (selectEntry rom t ratio).seg →
      romRead rom' t e .b = romRead rom t e .b ∧ romRead rom' t e .m = romRead rom t e .m) :
    selectEntry rom' t ratio = selectEntry rom t ratio := by
  obtain ⟨e, hke, hlt, heq⟩ | ⟨hall, heq⟩ := selectEntry_cases rom t ratio
  · obtain ⟨hb, hm⟩ := hbm e (by rw [heq])
    rw [heq, ← hb, ← hm]
    exact selectEntry_eq_of_first (by rwa [hk]) fun d hd => by rw [hk]; exact hlt d hd
  · rw [heq]
    exact selectEntry_eq_of_all_lt fun d => by rw [hk]; exact hall d

/-- A bound on M in the whole table bounds the selected M, which is 0 where nothing is selected
(41_lux_calc.md R110, R111). -/
theorem selectEntry_m_le {n : Nat} (h : ∀ e, (romRead rom t e .m).toNat ≤ n) (ratio : Nat) :
    (selectEntry rom t ratio).m ≤ n := by
  obtain ⟨e, -, -, heq⟩ | ⟨-, heq⟩ := selectEntry_cases rom t ratio
  · rw [heq]
    exact h e
  · rw [heq]
    exact Nat.zero_le n

end Sys2Proof.Machine
end

section
/-! CALC as a function of its inputs: what it reads of the build, and that it never errs (41_lux_calc.md R101, R109,
R112, R117, R122). -/

namespace Sys2Proof.Machine

/-- CALC uses the build only through the selection made for RATIO (41_lux_calc.md R109, R122). -/
theorem luxCalc_congr_build {b b' : Build} {c : Cfg} {ch0 ch1 : Channel}
    (h : selectEntry b'.rom b'.package (luxCalc b c ch0 ch1).ratio =
      selectEntry b.rom b.package (luxCalc b c ch0 ch1).ratio) :
    luxCalc b' c ch0 ch1 = luxCalc b c ch0 ch1 := by
  simp only [luxCalc] at h ⊢
  rw [h]

/-- With a ROM that gives the same selection, CALC leaves the same registers and gives the same response
(41_lux_calc.md R109). -/
theorem exec_calcLux_with_rom {s : State} {rom : BpRom} {ch0 ch1 : Channel}
    (h : selectEntry rom s.build.package (luxCalc s.build s.regs.cfg ch0 ch1).ratio =
      selectEntry s.build.rom s.build.package (luxCalc s.build s.regs.cfg ch0 ch1).ratio) :
    ∃ u, exec (.calcLux ch0 ch1) { s with build := { s.build with rom := rom } } = .next u ∧
      u.regs = (commitCalc (luxCalc s.build s.regs.cfg ch0 ch1) s).regs ∧
      u.rsp = some ⟨false, BitVec.ofNat 32 (luxCalc s.build s.regs.cfg ch0 ch1).lux⟩ := by
  have hcalc : luxCalc { s.build with rom := rom } s.regs.cfg ch0 ch1 = luxCalc s.build s.regs.cfg ch0 ch1 :=
    luxCalc_congr_build h
  refine ⟨_, exec_calcLux ch0 ch1 _, ?_, ?_⟩
  · rw [respond_regs, hcalc]
    rfl
  · rw [respond_rsp, hcalc]

/-- Settles O39: CALC responds without an error and keeps ERR. -/
theorem calcNeverErrs : Obligations.CalcNeverErrs := fun data s =>
  ⟨_, _, _, _, decode_requestWord 3 data, exec_calcLux _ _ s, respond_rsp _ _ _, statusAfterCalc_err _ _⟩

/-- Settles O46: two builds with one PACKAGE and ROM make the same selection. -/
theorem calcDependsOnlyOnItsInputs : Obligations.CalcDependsOnlyOnItsInputs := by
  intro s s' ch0 ch1 hcfg hpkg hrom
  have hcalc : luxCalc s.build s.regs.cfg ch0 ch1 = luxCalc s'.build s'.regs.cfg ch0 ch1 := by
    rw [hcfg]
    exact luxCalc_congr_build (by rw [hpkg, hrom])
  refine ⟨_, _, exec_calcLux ch0 ch1 s, exec_calcLux ch0 ch1 s', ?_, ?_, rfl, ?_⟩
  · simp only [respond_rsp, hcalc]
  · simp only [respond_regs, hcalc]
    rw [commitCalc, commitCalc, hcfg]
  · simp only [respond_regs, commitCalc_status, statusAfterCalc_clamp, hcalc]

/-- Settles O47: the selection reads the table of PACKAGE alone. -/
theorem calcReadsOnlyThePackagesTable : Obligations.CalcReadsOnlyThePackagesTable := by
  intro s rom ch0 ch1 hrom
  obtain ⟨u, hu, hregs, hrsp⟩ := exec_calcLux_with_rom (s := s) (ch0 := ch0) (ch1 := ch1)
    (selectEntry_congr (fun e => hrom e .k) fun e _ => ⟨hrom e .b, hrom e .m⟩)
  exact ⟨_, u, exec_calcLux ch0 ch1 s, hu, hregs, hrsp⟩

/-- Settles O42: SEG is at most 7, so the selected entry is one whose B and M the two ROMs share. -/
theorem entryEightIsNeverSelected : Obligations.EntryEightIsNeverSelected := by
  intro s rom ch0 ch1 hb _ hrom
  have hseg := luxCalc_seg_le s.regs.cfg ch0 ch1 hb.1
  have hselect : selectEntry rom s.build.package (luxCalc s.build s.regs.cfg ch0 ch1).ratio =
      selectEntry s.build.rom s.build.package (luxCalc s.build s.regs.cfg ch0 ch1).ratio := by
    refine selectEntry_congr (fun e => ?_) fun e he => ?_
    · exact (hrom _ e .k).resolve_left fun h => h.2 rfl
    · have hne : e ≠ 7 := by
        rintro rfl
        rw [luxCalc_seg, ← he] at hseg
        exact absurd hseg (by decide)
      exact ⟨(hrom _ e .b).resolve_left fun h => hne h.1, (hrom _ e .m).resolve_left fun h => hne h.1⟩
  obtain ⟨u, hu, hregs, hrsp⟩ := exec_calcLux_with_rom hselect
  refine ⟨_, u, exec_calcLux ch0 ch1 s, hu, fun h8 => ?_, hregs, hrsp⟩
  obtain ⟨hseg', -⟩ := commitCalc_luxCalc_toNat hb.1 s.regs.cfg ch0 ch1
  rw [respond_regs] at h8
  rw [h8] at hseg'
  exact absurd (hseg'.le.trans hseg) (by decide)

end Sys2Proof.Machine
end

section
/-! The thresholds of the scan are inclusive (41_lux_calc.md R110, R121). -/

namespace Sys2Proof.Machine

/-- Settles O43: K does not fall along the table, so no entry before one with `K = RATIO` reaches RATIO but with the
same K, and none up to one with `K + 1 = RATIO` reaches it at all. -/
theorem thresholdsAreInclusive : Obligations.ThresholdsAreInclusive := by
  rintro s ch0 ch1 e _ hb - rfl
  obtain ⟨hseg, hratio, -⟩ := commitCalc_luxCalc_toNat hb.1 s.regs.cfg ch0 ch1
  rw [luxCalc_seg] at hseg
  refine ⟨_, exec_calcLux ch0 ch1 s, ?_⟩
  rw [respond_regs, hseg, hratio]
  generalize (luxCalc s.build s.regs.cfg ch0 ch1).ratio = ratio
  refine ⟨fun heq hne => ?_, fun heq => ?_⟩
  · have hlt : ∀ d < e, (romRead s.build.rom s.build.package d .k).toNat < ratio := fun d hd =>
      heq ▸ lt_of_le_of_ne (romRead_k_mono hb.1 _ hd.le) (hne d hd)
    rw [selectEntry_eq_of_first heq.le hlt, entryNumber]
  · obtain ⟨e', hk, -, hsel⟩ | ⟨-, hsel⟩ := selectEntry_cases s.build.rom s.build.package ratio
    · have hlt : e < e' := by
        by_contra hle
        have hmono := romRead_k_mono hb.1 s.build.package (not_lt.1 hle)
        omega
      rw [hsel]
      exact .inr (Nat.succ_lt_succ hlt)
    · rw [hsel]
      exact .inl rfl

end Sys2Proof.Machine
end

section
/-! CALC where scaled channel 0 is 0, as with GAIN = 0 (41_lux_calc.md R119, R120). -/

namespace Sys2Proof.Machine

/-- Where scaled channel 0 is 0, CALC with any ROM finds ratio 0, entry 1 and lux 0, clamped if scaled channel 1 and M
of entry 1 are not 0 (41_lux_calc.md R107, R120). -/
theorem luxCalc_of_sc0_eq_zero {b : Build} {c : Cfg} {ch0 ch1 : Channel} (h : (luxCalc b c ch0 ch1).sc0 = 0) :
    luxCalc b c ch0 ch1 = ⟨chScale c, 0, scaled ch1 (chScale c), 0, 1,
      decide (scaled ch1 (chScale c) ≠ 0 ∧ romRead b.rom b.package 0 .m ≠ 0), 0, 0⟩ := by
  have hsc0 : scaled ch0 (chScale c) = 0 := h
  have hratio (sc1 : Nat) : roundRatio (rawRatio 0 sc1) = 0 := by simp [roundRatio, rawRatio]
  have htemp (sc1 b m : Nat) : tempOf 0 sc1 ⟨1, b, m⟩ = -((sc1 * m : Nat) : Int) := by simp [tempOf]
  have hclamp (sc1 : Nat) (m : RomWord) : -((sc1 * m.toNat : Nat) : Int) < 0 ↔ sc1 ≠ 0 ∧ m ≠ 0 := by
    rw [neg_neg_iff_pos, Int.natCast_pos, Nat.pos_iff_ne_zero, mul_ne_zero_iff, BitVec.toNat_ne (y := 0)]
    rfl
  simp only [luxCalc, hsc0, hratio, selectEntry_zero, htemp, hclamp, Int.toNat_neg_natCast]
  rfl

/-- With GAIN = 0 every value of CALC but SEG is 0 (41_lux_calc.md R119). -/
theorem luxCalc_of_gain_false {c : Cfg} (h : c.gain = false) (b : Build) (ch0 ch1 : Channel) :
    luxCalc b c ch0 ch1 = ⟨0, 0, 0, 0, 1, false, 0, 0⟩ := by
  have hcs : chScale c = 0 := by simp [chScale, gainValue, h]
  rw [luxCalc_of_sc0_eq_zero (scaled_of_gain_false h ch0), scaled_of_gain_false h ch1, hcs]
  simp

/-- CHSCALE by INTEG and GAIN (41_lux_calc.md R105). -/
theorem chScale_eq (c : Cfg) : chScale c =
    (if c.integ = 0 then 0x7517 else if c.integ = 1 then 0x0FE7 else 16384) * (if c.gain then 16 else 0) := by
  obtain ⟨integ, gain⟩ := c
  cases gain <;> rfl

/-- With GAIN = 1 chScale is at least `2 ^ 14`, with every INTEG (41_lux_calc.md R105). -/
theorem le_chScale_of_gain_true {c : Cfg} (h : c.gain = true) : 2 ^ 14 ≤ chScale c := by
  rw [chScale_eq, if_pos h]
  split_ifs <;> decide

/-- With GAIN = 1 a scaled channel is 0 only for a channel of 0 (41_lux_calc.md R106, R120). -/
theorem scaled_eq_zero_iff {c : Cfg} (h : c.gain = true) (ch : Channel) : scaled ch (chScale c) = 0 ↔ ch = 0 := by
  rw [scaled, Nat.shiftRight_eq_div_pow, Nat.div_eq_zero_iff_lt (by decide)]
  refine ⟨fun hlt => ?_, fun h0 => by simp [h0]⟩
  by_contra h0
  have hpos : 1 ≤ ch.toNat := Nat.pos_of_ne_zero fun hz => h0 (BitVec.eq_of_toNat_eq hz)
  have hprod := Nat.mul_le_mul hpos (le_chScale_of_gain_true h)
  omega

/-- A scaled channel is 0 as a register exactly when it is 0 as a number (41_lux_calc.md R118). -/
theorem ofNat_scaled_eq_zero_iff (ch : Channel) (c : Cfg) :
    BitVec.ofNat 32 (scaled ch (chScale c)) = 0 ↔ scaled ch (chScale c) = 0 := by
  have hle := scaled_le ch c
  rw [← BitVec.toNat_inj, toNat_ofNat_of_lt (by omega)]
  rfl

/-- Settles O44: GAIN = 0 makes both scaled channels 0, and only WRCFG writes GAIN, which is 0 after reset. -/
theorem gainZeroGivesLuxZero : Obligations.GainZeroGivesLuxZero := by
  refine ⟨fun s ch0 ch1 hgain => ?_, fun b host n rs hrs => ?_⟩
  · refine ⟨_, exec_calcLux ch0 ch1 s, ?_⟩
    rw [luxCalc_of_gain_false hgain]
    exact ⟨rfl, rfl, rfl, rfl, rfl, rfl, rfl, rfl, rfl⟩
  · obtain ⟨u, hu, -, hcfg⟩ := operateAll_keeps_cfg hrs (State.afterReset b host n)
    exact ⟨u, hu, by rw [hcfg]; rfl⟩

/-- Settles O45: the whole CALC with scaled channel 0 at 0, and when that is. -/
theorem scaledZeroSelectsEntryOne : Obligations.ScaledZeroSelectsEntryOne := by
  intro s ch0 ch1
  refine ⟨_, exec_calcLux ch0 ch1 s, fun h0 => ?_, fun hgain => ?_⟩
  · have hsc0 : (luxCalc s.build s.regs.cfg ch0 ch1).sc0 = 0 := (ofNat_scaled_eq_zero_iff ch0 _).1 h0
    rw [luxCalc_of_sc0_eq_zero hsc0]
    refine ⟨rfl, rfl, rfl, rfl, ?_⟩
    simp only [respond_regs, commitCalc_status, commitCalc_sch1, statusAfterCalc_clamp, decide_eq_true_eq, ne_eq,
      ofNat_scaled_eq_zero_iff]
  · exact (ofNat_scaled_eq_zero_iff ch0 _).trans (scaled_eq_zero_iff hgain ch0)

end Sys2Proof.Machine
end

section
/-! The ranges of CALC's values with any legal ROM, and every value it writes (41_lux_calc.md R104 to R118). -/

namespace Sys2Proof.Machine

/-- A scaled channel as a quotient (41_lux_calc.md R106). -/
theorem scaled_eq_div (ch : Channel) (cs : Nat) : scaled ch cs = ch.toNat * cs / 16384 :=
  Nat.shiftRight_eq_div_pow _ 14

/-- The product of a channel and chScale fits its width (41_lux_calc.md R118). -/
theorem channel_mul_chScale_le (c : Cfg) (ch : Channel) : ch.toNat * chScale c ≤ 31430586000 := by
  have hcs : chScale c ≤ 479600 := by rcases chScale_cases c with h | h | h | h <;> omega
  exact Nat.mul_le_mul (Nat.le_of_lt_succ ch.isLt) hcs

/-- The raw ratio is at most the shifted scaled channel 1 (41_lux_calc.md R107). -/
theorem rawRatio_le (sc0 sc1 : Nat) : rawRatio sc0 sc1 ≤ sc1 * 1024 := by
  unfold rawRatio
  split
  · exact Nat.zero_le _
  · rw [Nat.shiftLeft_eq]
    exact Nat.div_le_self _ _

/-- TEMP is at least the greatest scaled channel 1 times a bound on M, negated (41_lux_calc.md R113). -/
theorem neg_le_tempOf {sc1 : Nat} (hsc1 : sc1 ≤ 1918370) (sc0 : Nat) {sel : Selection} {n : Nat} (hm : sel.m ≤ n) :
    -((1918370 * n : Nat) : Int) ≤ tempOf sc0 sc1 sel := by
  have hprod := Nat.mul_le_mul hsc1 hm
  have hpos := Int.natCast_nonneg (sc0 * sel.b)
  unfold tempOf
  push_cast at hprod hpos ⊢
  omega

/-- A bound on `tc` bounds lux (41_lux_calc.md R114, R115). -/
theorem luxCalc_lux_le {b : Build} {c : Cfg} {ch0 ch1 : Channel} {n : Nat} (h : (luxCalc b c ch0 ch1).tc ≤ n) :
    (luxCalc b c ch0 ch1).lux ≤ (n + 8192) / 16384 := by
  rw [luxCalc_lux]
  exact Nat.div_le_div_right (Nat.add_le_add_right h _)

/-- Settles O40: each value by the bounds on the values it is made of. -/
theorem calcValuesFitTheirWidths : Obligations.CalcValuesFitTheirWidths := by
  intro b c ch0 ch1 hb v
  have hsc1 := luxCalc_sc1_le b c ch0 ch1
  have htc := luxCalc_tc_le c ch0 ch1 hb.1
  obtain ⟨-, -, hm⟩ := selectEntry_le hb.1 b.package v.ratio
  exact ⟨chScale_cases c, channel_mul_chScale_le c ch0, channel_mul_chScale_le c ch1, luxCalc_sc0_le b c ch0 ch1, hsc1,
    (rawRatio_le _ _).trans (Nat.mul_le_mul_right 1024 hsc1), luxCalc_ratio_le b c ch0 ch1, neg_le_tempOf hsc1 _ hm,
    htc, luxCalc_lux_le htc⟩

/-- The table of a package (20_memory.md R45). -/
theorem romTable_eq_ite (rom : BpRom) (t : Package) : romTable rom t = if t = .cs then rom.cs else rom.tFnCl := by
  cases t <;> rfl

/-- The selection in terms of the table's entries (41_lux_calc.md R110, R111). -/
theorem selectEntry_romTable_cases (rom : BpRom) (t : Package) (ratio : Nat) :
    (∃ e : Fin 8, (selectEntry rom t ratio).seg = e + 1 ∧ ratio ≤ ((romTable rom t).get e).k.toNat ∧
      (∀ d < e, ((romTable rom t).get d).k.toNat < ratio) ∧
      (selectEntry rom t ratio).b = ((romTable rom t).get e).b.toNat ∧
      (selectEntry rom t ratio).m = ((romTable rom t).get e).m.toNat) ∨
    ((∀ d, ((romTable rom t).get d).k.toNat < ratio) ∧ (selectEntry rom t ratio).seg = 0 ∧
      (selectEntry rom t ratio).b = 0 ∧ (selectEntry rom t ratio).m = 0) := by
  obtain ⟨e, hk, hlt, heq⟩ | ⟨hall, heq⟩ := selectEntry_cases rom t ratio
  · rw [heq]
    exact .inl ⟨e, rfl, hk, hlt, rfl, rfl⟩
  · rw [heq]
    exact .inr ⟨hall, rfl, rfl, rfl⟩

/-- CALC stores CHSCALE and LUX whole, as each fits its register (41_lux_calc.md R116, R118). -/
theorem commitCalc_luxCalc_chscale_lux_toNat {s : State} (hb : romLegal s.build.rom) (c : Cfg) (ch0 ch1 : Channel) :
    (commitCalc (luxCalc s.build c ch0 ch1) s).regs.chscale.toNat = (luxCalc s.build c ch0 ch1).cs ∧
      (commitCalc (luxCalc s.build c ch0 ch1) s).regs.lux.toNat = (luxCalc s.build c ch0 ch1).lux := by
  have hcs := chScale_cases c
  rw [← luxCalc_cs s.build c ch0 ch1] at hcs
  have hlux := luxCalc_lux_le (luxCalc_tc_le c ch0 ch1 hb)
  exact ⟨toNat_ofNat_of_lt (by omega), toNat_ofNat_of_lt (by omega)⟩

/-- Settles O38: each step of CALC by its lemma, and each value stored whole. -/
theorem calcComputesAndCommitsLux : Obligations.CalcComputesAndCommitsLux := by
  intro data s hb
  have hch0 : (data.extractLsb' 0 16).toNat = data.toNat % 2 ^ 16 := by
    rw [slice_toNat]
    omega
  have hch1 : (data.extractLsb' 16 16).toNat = data.toNat / 2 ^ 16 := by
    rw [slice_toNat]
    omega
  have hdec : decode (requestWord 3 data) = .calcLux (data.extractLsb' 0 16) (data.extractLsb' 16 16) :=
    decode_requestWord 3 data
  generalize data.extractLsb' 0 16 = ch0 at *
  generalize data.extractLsb' 16 16 = ch1 at *
  obtain ⟨hseg, hratio, hsch0, hsch1, htemp⟩ := commitCalc_luxCalc_toNat hb.1 s.regs.cfg ch0 ch1
  obtain ⟨hchscale, hlux⟩ := commitCalc_luxCalc_chscale_lux_toNat hb.1 s.regs.cfg ch0 ch1
  have htc := luxCalc_tc_eq_max s.build s.regs.cfg ch0 ch1
  refine ⟨ch0, ch1, _, (luxCalc s.build s.regs.cfg ch0 ch1).cs, (luxCalc s.build s.regs.cfg ch0 ch1).sc0,
    (luxCalc s.build s.regs.cfg ch0 ch1).sc1, _, (luxCalc s.build s.regs.cfg ch0 ch1).ratio, _, _, _, _,
    ((luxCalc s.build s.regs.cfg ch0 ch1).tc : Int), romTable s.build.rom s.build.package, hdec, exec_calcLux ch0 ch1 s,
    hch0, hch1, chScale_eq _, scaled_eq_div _ _, scaled_eq_div _ _, rfl, luxCalc_ratio _ _ _ _, romTable_eq_ite _ _,
    selectEntry_romTable_cases _ _ _, rfl, htc, hchscale, hsch0, hsch1, hratio, hseg, congrArg Nat.cast htemp, ?_, rfl,
    rfl, rfl, rfl⟩
  rw [respond_regs, hlux, luxCalc_lux]
  rfl

end Sys2Proof.Machine
end

section
/-! The tighter ranges with the default ROM, whose words are PRESUMED but for one entry (41_lux_calc.md R118,
20_memory.md R46, log entry 3). -/

namespace Sys2Proof.Machine

/-- A RATIO above `n` means that scaled channel 1 is more than `n / 512` of scaled channel 0
(41_lux_calc.md R107, R108). -/
theorem mul_sc0_le_of_lt_ratio {b : Build} {c : Cfg} {ch0 ch1 : Channel} {n : Nat}
    (h : n < (luxCalc b c ch0 ch1).ratio) :
    (2 * n + 1) * (luxCalc b c ch0 ch1).sc0 ≤ (luxCalc b c ch0 ch1).sc1 * 1024 := by
  rw [luxCalc_ratio] at h
  split at h
  · omega
  next hne =>
    rw [← Nat.le_div_iff_mul_le (Nat.pos_of_ne_zero hne)]
    omega

/-- Every M of the default ROM is at most 0x3FE (20_memory.md R46). -/
theorem defaultRom_m_le (p : Package) (e : Fin 8) : (romRead defaultRom p e .m).toNat ≤ 0x3FE := by
  cases p <;> revert e <;> decide

/-- B of entry 1 of the default ROM is at most 516 (20_memory.md R46). -/
theorem defaultRom_b_zero_le (p : Package) : (romRead defaultRom p 0 .b).toNat ≤ 516 := by
  cases p <;> decide

/-- In the default ROM an entry's B exceeds 516 by no more than M takes away again at the least ratio that selects
the entry, which is above the K of the entry before (20_memory.md R46). -/
theorem defaultRom_b_succ_le (p : Package) (d : Fin 7) : (romRead defaultRom p d.succ .b).toNat * 1024 ≤
    516 * 1024 + (romRead defaultRom p d.succ .m).toNat * (2 * (romRead defaultRom p d.castSucc .k).toNat + 1) := by
  cases p <;> revert d <;> decide

/-- TEMP is at most `n` times scaled channel 0 where the product with M takes away what B exceeds `n` by
(41_lux_calc.md R113). -/
theorem tempOf_le_of_mul_le {sc0 sc1 n : Nat} {sel : Selection} (h : sc0 * sel.b ≤ n * sc0 + sc1 * sel.m) :
    tempOf sc0 sc1 sel ≤ n * sc0 := by
  have hcast : ((sc0 * sel.b : Nat) : Int) ≤ (n * sc0 + sc1 * sel.m : Nat) := Int.ofNat_le.2 h
  unfold tempOf
  push_cast at hcast
  omega

/-- TEMP is at most `n` times scaled channel 0 where, at the least ratio above `k`, M takes away what B exceeds `n` by
(41_lux_calc.md R108, R113). -/
theorem tempOf_le_of_ratio {sc0 sc1 n k : Nat} {sel : Selection} (hb : sel.b * 1024 ≤ n * 1024 + sel.m * (2 * k + 1))
    (hk : (2 * k + 1) * sc0 ≤ sc1 * 1024) : tempOf sc0 sc1 sel ≤ n * sc0 := by
  have hmul : sc0 * sel.b * 1024 ≤ (n * sc0 + sc1 * sel.m) * 1024 :=
    calc sc0 * sel.b * 1024
      _ = sc0 * (sel.b * 1024) := mul_assoc _ _ _
      _ ≤ sc0 * (n * 1024 + sel.m * (2 * k + 1)) := Nat.mul_le_mul_left _ hb
      _ = n * sc0 * 1024 + sel.m * ((2 * k + 1) * sc0) := by ring
      _ ≤ n * sc0 * 1024 + sel.m * (sc1 * 1024) := Nat.add_le_add_left (Nat.mul_le_mul_left _ hk) _
      _ = (n * sc0 + sc1 * sel.m) * 1024 := by ring
  exact tempOf_le_of_mul_le (Nat.le_of_mul_le_mul_right hmul (by decide))

/-- With the default ROM TEMP is at most 516, the greatest B of an entry 1, times scaled channel 0
(41_lux_calc.md R113). -/
theorem defaultRom_tempOf_le {b : Build} (hrom : b.rom = defaultRom) (c : Cfg) (ch0 ch1 : Channel) :
    tempOf (luxCalc b c ch0 ch1).sc0 (luxCalc b c ch0 ch1).sc1
      (selectEntry b.rom b.package (luxCalc b c ch0 ch1).ratio) ≤ 516 * (luxCalc b c ch0 ch1).sc0 := by
  rw [hrom]
  have hratio (n : Nat) (h : n < (luxCalc b c ch0 ch1).ratio) := mul_sc0_le_of_lt_ratio h
  generalize luxCalc b c ch0 ch1 = v at *
  obtain ⟨e, -, hlt, heq⟩ | ⟨-, heq⟩ := selectEntry_cases defaultRom b.package v.ratio
  · rw [heq]
    cases e using Fin.cases with
    | zero =>
      have hprod := Nat.mul_le_mul_left v.sc0 (defaultRom_b_zero_le b.package)
      exact tempOf_le_of_mul_le (n := 516) (by dsimp only; omega)
    | succ d => exact tempOf_le_of_ratio (defaultRom_b_succ_le _ d) (hratio _ (hlt _ Fin.castSucc_lt_succ))
  · rw [heq]
    simp [tempOf]

/-- Settles O41: `516 * 1918370` bounds TEMP from above for every input, and `-1918370 * 1022` from below. -/
theorem defaultRomBoundsLux : Obligations.DefaultRomBoundsLux := by
  refine ⟨?_, fun l => ?_⟩
  · intro p l c ch0 ch1 v
    have hsc0 : v.sc0 ≤ 1918370 := luxCalc_sc0_le _ c ch0 ch1
    have hsc1 : v.sc1 ≤ 1918370 := luxCalc_sc1_le _ c ch0 ch1
    have htemp : tempOf v.sc0 v.sc1 (selectEntry defaultRom p v.ratio) ≤ 516 * v.sc0 :=
      defaultRom_tempOf_le (b := ⟨p, defaultRom, l⟩) rfl c ch0 ch1
    have htc : v.tc ≤ 516 * 1918370 := by
      have hmax : (v.tc : Int) = max (tempOf v.sc0 v.sc1 (selectEntry defaultRom p v.ratio)) 0 :=
        luxCalc_tc_eq_max ⟨p, defaultRom, l⟩ c ch0 ch1
      omega
    have hlux : v.lux ≤ 60417 := luxCalc_lux_le htc
    exact ⟨by omega, neg_le_tempOf hsc1 _ (selectEntry_m_le (defaultRom_m_le p) _), by omega, by omega, fun _ => hlux⟩
  · rw [luxCalc_congr_build (b := ⟨.cs, defaultRom, 1⟩) (b' := ⟨.cs, defaultRom, l⟩) rfl]
    decide

end Sys2Proof.Machine
end

section
/-! Which words the error outcome is for, by the opcode and the data word (30_encoding.md R70). -/

namespace Sys2Proof

/-- A word that 30_encoding.md R70 lists: a reserved opcode, RDREG selector or RDROM field code. -/
def IsListedWord (op : BitVec 3) (d : Word) : Prop :=
  5 ≤ op.toNat ∨ (op = 2 ∧ 9 ≤ d.toNat % 16) ∨ (op = 4 ∧ d.toNat / 16 % 4 = 3)

/-- The one cause code that an opcode can give (60_exceptions.md R140, R141). -/
def causeOfOpcode (op : BitVec 3) : BitVec 2 := if op = 2 then 2 else if op = 4 then 3 else 1

/-- The cause of a reserved opcode is BadOp (60_exceptions.md R140). -/
theorem causeOfOpcode_of_reserved {op : BitVec 3} (h : 5 ≤ op.toNat) : causeOfOpcode op = 1 := by
  revert op
  decide

/-- A listed word decodes to the reserved encoding of its opcode's cause (30_encoding.md R70, 60_exceptions.md R141). -/
theorem decodeRequest_of_listed {op : BitVec 3} {d : Word} (h : IsListedWord op d) :
    (∃ op', decodeRequest op d = .badOp op') ∧ causeOfOpcode op = 1 ∨
    (∃ sel, decodeRequest op d = .badSel sel) ∧ causeOfOpcode op = 2 ∨
    (∃ tbl idx, decodeRequest op d = .badFld tbl idx) ∧ causeOfOpcode op = 3 := by
  obtain hop | ⟨rfl, hsel⟩ | ⟨rfl, hcode⟩ := h
  · exact .inl ⟨⟨op, decodeRequest_of_reserved hop d⟩, causeOfOpcode_of_reserved hop⟩
  · obtain ⟨sel, hdec, -⟩ := decodeRdreg_of_nine_le hsel
    exact .inr (.inl ⟨⟨sel, hdec⟩, rfl⟩)
  · obtain ⟨idx, hdec, -⟩ := decodeRdrom_of_eq_three hcode
    exact .inr (.inr ⟨⟨_, idx, hdec⟩, rfl⟩)

/-- An operation that only reads is no reserved encoding (30_encoding.md R70). -/
theorem Instr.IsRead.not_isReserved {i : Instr} (h : i.IsRead) : ¬ i.IsReserved := by
  obtain rfl | ⟨r, rfl⟩ | ⟨tbl, idx, fld, rfl⟩ := h <;> simp [Instr.IsReserved]

/-- No other word decodes to a reserved encoding (30_encoding.md R70). -/
theorem decodeRequest_not_isReserved {op : BitVec 3} {d : Word} (h : ¬ IsListedWord op d) :
    ¬ (decodeRequest op d).IsReserved := by
  obtain rfl | rfl | rfl | rfl | rfl | hop := opcode_cases op
  · exact Instr.IsRead.not_isReserved (.inl rfl)
  · change ¬ (Instr.wrcfg _ _).IsReserved
    simp [Instr.IsReserved]
  · have hsel : ¬ 9 ≤ d.toNat % 16 := fun hsel => h (.inr (.inl ⟨rfl, hsel⟩))
    obtain ⟨r, hdec, -⟩ := decodeRdreg_of_le (d := d) (by omega)
    exact Instr.IsRead.not_isReserved (.inr (.inl ⟨r, hdec⟩))
  · change ¬ (Instr.calcLux _ _).IsReserved
    simp [Instr.IsReserved]
  · have hcode : d.toNat / 16 % 4 ≠ 3 := fun hcode => h (.inr (.inr ⟨rfl, hcode⟩))
    obtain ⟨idx, f, hdec, -⟩ := decodeRdrom_of_le (d := d) (by omega)
    exact Instr.IsRead.not_isReserved (.inr (.inr ⟨_, idx, f, hdec⟩))
  · exact absurd (.inl hop) h

end Sys2Proof
end

section
/-! The error outcome, by the reserved encoding and by the request word (60_exceptions.md R140, R141). -/

namespace Sys2Proof.Machine

/-- Only CALC takes longer than one edge (30_encoding.md R64). -/
theorem latency_of_ne_three (b : Build) {op : BitVec 3} (h : op ≠ 3) : latency b op = 1 := if_neg h

/-- Settles O36, by the reserved encoding. -/
theorem errorOutcomeRecordsItsCause : Obligations.ErrorOutcomeRecordsItsCause := by
  rintro i s _ hwf (⟨⟨op, rfl⟩, rfl⟩ | ⟨⟨sel, rfl⟩, rfl⟩ | ⟨⟨tbl, idx, rfl⟩, rfl⟩)
  · have hop : 5 ≤ op.toNat := of_decide_eq_true hwf
    have hne : op ≠ 3 := by
      rintro rfl
      exact absurd hop (by decide)
    exact ⟨latency_of_ne_three _ hne, _, exec_badOp op s, rfl, rfl, rfl, rfl⟩
  · exact ⟨latency_of_ne_three (op := 2) _ (by decide), _, exec_badSel sel s, rfl, rfl, rfl, rfl⟩
  · exact ⟨latency_of_ne_three (op := 4) _ (by decide), _, exec_badFld tbl idx s, rfl, rfl, rfl, rfl⟩

/-- Settles O37: a listed word is a reserved encoding, whose outcome O36 gives, and any other word is none. -/
theorem exactlyTheListedWordsTakeTheErrorOutcome : Obligations.ExactlyTheListedWordsTakeTheErrorOutcome := by
  intro op data s
  rw [decode_requestWord]
  by_cases h : IsListedWord op data
  · obtain ⟨hlat, t, hx, hrsp, -, -, ht⟩ := errorOutcomeRecordsItsCause _ s _ (decodeRequest_wellFormed op data)
      (decodeRequest_of_listed h)
    rw [opOf_decodeRequest] at hlat
    exact ⟨t, _, hx, hrsp, iff_of_true rfl h, fun _ => ⟨rfl, hlat, ht⟩, nofun⟩
  · obtain ⟨g, r, he, hx⟩ := exec_opEffect (decodeRequest op data) s
    obtain ⟨hok, herr, hecode⟩ := he.err_eq (decodeRequest_not_isReserved h)
    have hne : r.err ≠ true := Bool.eq_false_iff.1 hok
    exact ⟨_, r, hx, rfl, iff_of_false hne h, fun hr => absurd hr hne, fun _ => ⟨herr, hecode⟩⟩

end Sys2Proof.Machine
end

section
/-! Reset: what edges without reset leave of a state, whatever stands in it, and the edge with `rst = 1`
(70_reset_and_hazards.md R160 to R163). -/

namespace Sys2Proof.Machine

/-- `t` stands where `n` edges without reset have led from `s`, as far as that is known of every `s`: the build and
whether there has been a reset are as in `s`, and each edge has used up one input and one draw. -/
structure AfterNoReset (n : Nat) (s t : State) : Prop where
  build     : t.build = s.build
  was_reset : t.wasReset = s.wasReset
  host      : t.host = s.host.drop n
  draws     : t.draws = s.draws + n

theorem AfterNoReset.refl (s : State) : AfterNoReset 0 s s := ⟨rfl, rfl, rfl, rfl⟩

theorem AfterNoReset.trans {m n : Nat} {s t u : State} (h : AfterNoReset m s t) (h' : AfterNoReset n t u) :
    AfterNoReset (m + n) s u where
  build := h'.build.trans h.build
  was_reset := h'.was_reset.trans h.was_reset
  host := by rw [h'.host, h.host, List.drop_drop]
  draws := by rw [h'.draws, h.draws, Nat.add_assoc]

/-- A step of a legal build without reset answers such a state, before the first reset and after it. -/
theorem step_afterNoReset {s : State} (hb : buildLegal s.build) (hr : (nextInput s).rst = false) :
    ∃ t, step s = .next t ∧ AfterNoReset 1 s t := by
  cases hw : s.wasReset with
  | false =>
    refine ⟨unknownEdge (takeInput s), ?_, rfl, hw.symm, by simp, rfl⟩
    rw [step_legal hb]
    simp [edge, hr, hw]
  | true =>
    obtain ⟨t, hst, -⟩ := step_next_build hb
    refine ⟨t, hst, ?_⟩
    obtain ⟨slot, rfl⟩ | ⟨i, g, r, -, rfl⟩ := step_cases_of_noReset hw hr hst
    · exact ⟨rfl, rfl, by simp, rfl⟩
    · exact ⟨rfl, rfl, by simp, rfl⟩

/-- So do any number of edges without reset. -/
theorem runEdges_afterNoReset {n : Nat} {s : State} (hb : buildLegal s.build)
    (hr : ∀ p ∈ s.host.take n, p.rst = false) : ∃ t, runEdges n s = .next t ∧ AfterNoReset n s t := by
  induction n generalizing s with
  | zero => exact ⟨s, rfl, .refl s⟩
  | succ n ih =>
    obtain ⟨hnext, hrest⟩ := (noReset_succ_iff s n).1 hr
    obtain ⟨u, hu, hsu⟩ := step_afterNoReset hb hnext
    obtain ⟨t, ht, hut⟩ := ih (s := u) (hsu.build ▸ hb) (by rwa [hsu.host, List.drop_one])
    refine ⟨t, ?_, n.add_comm 1 ▸ hsu.trans hut⟩
    simp only [runEdges, hu, ht]

/-- An edge with `rst = 1` gives the state right after reset, from any state of a legal build
(70_reset_and_hazards.md R160, R161). -/
theorem step_reset {s : State} (hb : buildLegal s.build) (hr : (nextInput s).rst = true) :
    step s = .next (State.afterReset s.build s.host.tail (s.draws + 1)) := by
  rw [step_legal hb, edge, if_pos hr]
  rfl

/-- A run up to its first edge with `rst = 1` ends in the state right after reset, with the inputs still to come. -/
theorem runEdges_reset {s : State} {ins : List PortIn} {p : PortIn} {rest : List PortIn} (hb : buildLegal s.build)
    (hhost : s.host = ins ++ p :: rest) (hins : ∀ q ∈ ins, q.rst = false) (hp : p.rst = true) :
    runEdges (ins.length + 1) s = .next (State.afterReset s.build rest (s.draws + (ins.length + 1))) := by
  obtain ⟨t, hrun, ht⟩ := runEdges_afterNoReset (n := ins.length) hb (by rwa [hhost, List.take_left])
  have htail : t.host = p :: rest := by rw [ht.host, hhost, List.drop_left]
  have hnext : nextInput t = p := by rw [nextInput, htail, List.headD_cons]
  have hstep := step_reset (s := t) (ht.build ▸ hb) (hnext ▸ hp)
  rw [ht.build, htail, ht.draws] at hstep
  rw [runEdges_add _ 1 _ _ hrun]
  simp only [runEdges, hstep, List.tail_cons, Nat.add_assoc]

theorem powerOn_build (b : Build) (host : List PortIn) : (powerOn b host).build = b := rfl
theorem powerOn_draws (b : Build) (host : List PortIn) : (powerOn b host).draws = 0 := rfl

/-- Settles O22: edges without reset leave the unknown block not yet reset, and the reset edge overwrites it. -/
theorem firstResetEndsTheUnknownState : Obligations.FirstResetEndsTheUnknownState := by
  intro b ins p rest hb hins hp
  have htake : (powerOn b (ins ++ p :: rest)).host.take ins.length = ins := List.take_left
  obtain ⟨t, hrun, ht⟩ := runEdges_afterNoReset (s := powerOn b (ins ++ p :: rest)) hb (htake ▸ hins)
  have hreset := runEdges_reset (s := powerOn b (ins ++ p :: rest)) hb rfl hins hp
  rw [powerOn_build, powerOn_draws, Nat.zero_add] at hreset
  exact ⟨⟨t, hrun, ht.was_reset, ht.build⟩, hreset⟩

/-- SEG is 15 right after reset (10_state.md R31). -/
theorem segWord_resetRegs : segWord resetRegs.seg = 15 := by decide

/-- STATUS is 0 right after reset (10_state.md R32). -/
theorem statusWord_resetRegs : statusWord resetRegs.status = 0 := by decide

/-- Settles O20: each register reads as its reset value in the state right after reset. -/
theorem resetEdgeSetsEveryRegister : Obligations.ResetEdgeSetsEveryRegister := by
  intro s hb hr
  exact ⟨_, step_reset hb hr, cfgWord_eq_or _ 2 false, rfl, rfl, rfl, rfl, rfl, rfl,
    segWord_resetRegs, statusWord_resetRegs, rfl, rfl, rfl⟩

/-- Settles O23: the registers' reset values satisfy the invariant, and the slot and the response are empty. -/
theorem resetStateSatisfiesTheInvariant : Obligations.ResetStateSatisfiesTheInvariant :=
  ⟨fun _ host n hb => blockInv_afterReset hb host n, blockInv_afterReset (b := defaultBuild) (by decide) [] 0⟩

end Sys2Proof.Machine
end

section
/-! The edge of an idle block that accepts nothing: the first one after reset, and each one of a finished run
(70_reset_and_hazards.md R162, R169; 60_exceptions.md R154). -/

namespace Sys2Proof.Machine

/-- With nothing in flight and nothing accepted, a step without reset only passes (30_encoding.md R62, R63). -/
theorem step_of_unaccepted {s : State} (hb : buildLegal s.build) (hw : s.wasReset = true) (hf : s.inflight = none)
    (hr : (nextInput s).rst = false) (h : reqReady s = false ∨ (nextInput s).reqValid = false) :
    step s = .next (tick (takeInput s)) := by
  rw [step_legal hb, edge_of_idle (s := takeInput s) hr hw hf]
  exact idleEdge_of_unaccepted h

/-- Settles O21: right after reset the block is not ready, so the next edge without reset accepts nothing and takes
it out of reset. -/
theorem readyOneEdgeAfterReset : Obligations.ReadyOneEdgeAfterReset := by
  intro s hb hr
  exact ⟨_, step_reset hb hr, rfl, fun hr' => ⟨_, step_of_unaccepted hb rfl rfl hr' (.inl rfl), rfl, rfl, rfl, rfl⟩⟩

/-- Through an edge without reset the inputs at which the run could accept a request lose the one just used, if it was
one of them (70_reset_and_hazards.md R169). -/
theorem openInputs_tick_subset {s : State} (hr : (nextInput s).rst = false) :
    openInputs (tick (takeInput s)) ⊆ openInputs s := by
  cases hhost : s.host with
  | nil => simp [openInputs, hhost]
  | cons p ps =>
    have hp : p.rst = false := by simpa [nextInput, hhost] using hr
    cases hlast : s.lastRst <;> simp [openInputs, hhost, hp, hlast]

/-- A finished run is offered nothing at an edge where the block is ready (70_reset_and_hazards.md R169). -/
theorem runFinished_unaccepted {s : State} (h : RunFinished s) (hr : (nextInput s).rst = false) :
    reqReady s = false ∨ (nextInput s).reqValid = false := by
  obtain ⟨-, -, hquiet⟩ := h
  cases hready : reqReady s with
  | false => exact .inl rfl
  | true =>
    obtain ⟨-, -, hlast⟩ := (reqReady_iff s).1 hready
    refine .inr ?_
    cases hhost : s.host with
    | nil => simp [nextInput, hhost, idleInput]
    | cons p ps =>
      have hnext : nextInput s = p := by simp [nextInput, hhost]
      rw [hnext] at hr ⊢
      exact hquiet p (by simp [openInputs, hlast, hhost, hr])

/-- An edge without reset only passes for a finished run, and leaves it finished. -/
theorem step_of_runFinished {s : State} (hb : buildLegal s.build) (h : RunFinished s)
    (hr : (nextInput s).rst = false) : step s = .next (tick (takeInput s)) ∧ RunFinished (tick (takeInput s)) := by
  have hnone := runFinished_unaccepted h hr
  obtain ⟨hw, hf, hquiet⟩ := h
  exact ⟨step_of_unaccepted hb hw hf hr hnone, hw, hf, fun p hp => hquiet p (openInputs_tick_subset hr hp)⟩

/-- A finished run through any number of edges without reset: the registers stay, and the response of the cycle it
starts in ends with the first edge. -/
theorem runEdges_of_runFinished {n : Nat} {s : State} (hb : buildLegal s.build) (h : RunFinished s)
    (hr : ∀ p ∈ s.host.take n, p.rst = false) :
    ∃ t, runEdges n s = .next t ∧ t.regs = s.regs ∧ RunFinished t ∧ t.rsp = if n = 0 then s.rsp else none := by
  induction n generalizing s with
  | zero => exact ⟨s, rfl, rfl, h, rfl⟩
  | succ n ih =>
    obtain ⟨hnext, hrest⟩ := (noReset_succ_iff s n).1 hr
    obtain ⟨hstep, hfin⟩ := step_of_runFinished hb h hnext
    obtain ⟨t, hrun, hregs, hend, hrsp⟩ := ih (s := tick (takeInput s)) hb hfin hrest
    refine ⟨t, ?_, hregs, hend, by simpa using hrsp⟩
    simp only [runEdges, hstep, hrun]

/-- Settles O19: each edge of a finished run accepts nothing and completes nothing. -/
theorem finishedRunStaysFinished : Obligations.FinishedRunStaysFinished := by
  intro s n hb h hr
  obtain ⟨t, hrun, hregs, hfin, hrsp⟩ := runEdges_of_runFinished hb h hr
  refine ⟨t, hrun, hregs, hfin, fun hn => ?_⟩
  rw [pins_rspValid, hrsp, if_neg hn]
  rfl

end Sys2Proof.Machine
end

section
/-! When a run is over: cut by a reset, or finished, and then with nothing in flight (70_reset_and_hazards.md R169). -/

namespace Sys2Proof.Machine

/-- A run that met no reset was not cut by one. -/
theorem not_runInterrupted_of_noReset {s : State} {n : Nat} (hr : ∀ p ∈ s.host.take n, p.rst = false) :
    ¬ RunInterrupted s n := by
  rintro ⟨ins, p, rest, hhost, rfl, -, hp⟩
  have hmem : p ∈ s.host.take (ins.length + 1) := by simp [hhost, List.take_append]
  exact absurd (hp.symm.trans (hr p hmem)) (by decide)

/-- Settles O50: a run up to a reset ends in the reset state; and one without a reset is over only if it is finished,
which leaves nothing in flight. -/
theorem resetEndsTheRunItCuts : Obligations.ResetEndsTheRunItCuts := by
  constructor
  · intro s ins p rest hb hhost hins hp
    have hrun := runEdges_reset hb hhost hins hp
    exact ⟨_, hrun, ⟨hrun, .inr ⟨ins, p, rest, hhost, rfl, hins, hp⟩⟩, rfl, rfl⟩
  · rintro s n t hr hbusy ⟨-, ⟨-, -, hidle, -⟩ | hcut⟩
    · exact hbusy hidle
    · exact not_runInterrupted_of_noReset hr hcut

end Sys2Proof.Machine
end
